-- ==== Sys2Proof/Word.lean ====
section
/-! DEFINITION. The widths that travel through the block (spec/10_state.md R27, R28). -/

namespace Sys2Proof

/-- One byte: a one-byte raw register value, `req.exp`, `req.len`, `req.op` (R27). -/
abbrev Byte := BitVec 8

/-- A 16-bit raw register value, `req.raw` (R27). -/
abbrev Half := BitVec 16

/-- An IEEE 754 binary32 bit pattern (R71). -/
abbrev F32 := BitVec 32

/-- The 40-bit result port `rsp.res` (R28). -/
abbrev Res := BitVec 40

end Sys2Proof
end

