-- ==== Sys2Proof/Config.lean ====
section
/-! DEFINITION. The implementation parameters of spec/00_scope.md R8 and the values the spec leaves open.
They are constants of an instance of the block: no request and no reset changes them (R30, R261). -/

namespace Sys2Proof.Config

/-! ## Fixed parameters (R8) -/

/-- `LF16_EXP_MIN`: least exponent of a LinearFloat16 word. -/
def lf16ExpMin : Int := -16

/-- `LF16_EXP_MAX`: greatest exponent of a LinearFloat16 word. -/
def lf16ExpMax : Int := 15

/-- `LF16_MANT_MIN`: least mantissa of a LinearFloat16 word. -/
def lf16MantMin : Int := -1024

/-- `LF16_MANT_MAX`: greatest mantissa of a LinearFloat16 word. -/
def lf16MantMax : Int := 1023

/-- `LFX16_RAW_MAX`: greatest LinearFixed16 word. -/
def lfx16RawMax : Int := 65535

/-- `DIR_R_MIN`: least R inside the power-of-ten table. -/
def dirRMin : Int := -8

/-- `DIR_R_MAX`: greatest R inside the power-of-ten table. -/
def dirRMax : Int := 8

/-- Least and greatest value of the 16-bit signed DirectLinear register (R66). -/
def dirRawMin : Int := -32768
def dirRawMax : Int := 32767

/-- `COEF_LEN_MIN`: least length of a coefficients response the parser accepts. -/
def coefLenMin : Nat := 5

/-! ## The one unspecified result (R145, `M_ZERO`) -/

/-- `M_ZERO`: the 32 result bits of DIR.DEC when m = 0, as a function of the remaining operands b, R and raw.
The spec calls them `any value` (R145, U1), so this constant has no body: a claim about DIR.DEC with m = 0 holds
for every value of it. A function of the operands because every operation is idempotent (R47). Log entry 7. -/
opaque mZero (b : BitVec 16) (r : Byte) (raw : Half) : F32

/-! ## The masks of the four partly used status registers (R192, decision D14: OPEN)

The source gives the number of used bits of each and not their positions. Each mask is therefore an unnamed member
of the list of ALL bytes with that number of bits set: a claim about the model holds for every such mask. Log entry 6. -/

/-- Number of bits set in a byte. -/
def weight (x : Byte) : Nat := ((List.range 8).filter x.getLsbD).length

/-- Every byte with exactly `k` bits set, rising. -/
def masksOfWeight (k : Nat) : List Byte :=
  ((List.range 256).map (BitVec.ofNat 8)).filter fun x => weight x == k

/-- Which of the 70 bytes with four bits set `MASK_TEMP` is. -/
opaque tempPick : Fin 70
/-- Which of the 8 bytes with seven bits set `MASK_CML` is. -/
opaque cmlPick : Fin 8
/-- Which of the 28 bytes with six bits set `MASK_FANS12` is. -/
opaque fans12Pick : Fin 28
/-- Which of the 28 bytes with six bits set `MASK_FANS34` is; need not be that of `MASK_FANS12` (R202). -/
opaque fans34Pick : Fin 28

/-- `MASK_TEMP`: vocabulary of the temperature status register, 4 used of 8 (R192, r = 5). -/
def maskTemp : Byte := (masksOfWeight 4).getD tempPick.val 0
/-- `MASK_CML`: vocabulary of the communication/logic status register, 7 used of 8 (R192, r = 6). -/
def maskCml : Byte := (masksOfWeight 7).getD cmlPick.val 0
/-- `MASK_FANS12`: vocabulary of the fan-bank-1/2 status register, 6 used of 8 (R192, r = 8). -/
def maskFans12 : Byte := (masksOfWeight 6).getD fans12Pick.val 0
/-- `MASK_FANS34`: vocabulary of the fan-bank-3/4 status register, 6 used of 8 (R192, r = 9). -/
def maskFans34 : Byte := (masksOfWeight 6).getD fans34Pick.val 0

/-- The spec's default values of the four masks (R192, D14, G3), from general knowledge and not from the source.
No meaning uses them; they stand here so that a claim at the defaults can name them. -/
def defaultMaskTemp : Byte := 0xF0
def defaultMaskCml : Byte := 0xFB
def defaultMaskFans12 : Byte := 0xFC
def defaultMaskFans34 : Byte := 0xFC

end Sys2Proof.Config
end

