-- ==== Sys2Proof/Syntax.lean ====
section
/-! DEFINITION. The syntax of the block: the request record that arrives on the ports (spec/10_state.md R27), the
operand types, and one constructor of `Instr` per row of spec/opcode_table.json (spec/30_encoding.md R61). An
instruction is an operation together with the value of each port it reads (R60); a port an operation does not read
is no part of its instruction (R27). -/

namespace Sys2Proof

/-- The request record: the input ports, all sampled together (R27). -/
structure Request where
  /-- operation select -/
  op : Byte
  /-- raw register value; a one-byte value is in bits 7:0 -/
  raw : Half
  /-- physical value to encode -/
  val : F32
  /-- LinearFixed16 exponent N -/
  exp : Byte
  /-- DirectLinear coefficients, packed as R67 says -/
  coef : BitVec 40
  /-- first five bytes of a coefficients response, byte i in bits 8i+7:8i -/
  buf : BitVec 40
  /-- number of bytes the response holds -/
  len : Byte
  /-- a ModeSelection, packed as R69 says -/
  mode : BitVec 11
  /-- bit index of the flag to test -/
  flag : BitVec 4
deriving DecidableEq, Repr

/-- DirectLinear coefficients: the triple m, b, R (R67, R140); m and b are i16, R is i8. -/
structure Coefficients where
  m : BitVec 16
  b : BitVec 16
  r : Byte
deriving DecidableEq, Repr

/-- The four variants of a ModeSelection (R69). The exponent is carried as the i8, and the code as the byte, that the
`param` field of the port holds; the other two variants have no parameter (D17). -/
inductive ModeVariant where
  | fixedExponent (exponent : Byte)
  | vidCode (code : Byte)
  | directFormat
  | ieeeHalfFormat
deriving DecidableEq, Repr

/-- A ModeSelection: the relative flag and one of the four variants (R69). -/
structure ModeSelection where
  relative : Bool
  variant : ModeVariant
deriving DecidableEq, Repr

/-- The ten status register types, in the order of R63. -/
inductive StatusReg where
  /-- byte-summary -/
  | byte
  /-- word-extended -/
  | word
  /-- output-voltage status -/
  | vout
  /-- output-current status -/
  | iout
  /-- input status -/
  | input
  /-- temperature status -/
  | temp
  /-- communication/logic status -/
  | cml
  /-- manufacturer-defined status -/
  | mfr
  /-- fan-bank-1/2 status -/
  | fans12
  /-- fan-bank-3/4 status -/
  | fans34
deriving DecidableEq, Repr

/-- The 39 operations of R61, each with the ports it reads (R27, R60). -/
inductive Instr where
  /-- LF16.DEC (R100) -/
  | lf16Dec (raw : Half)
  /-- LF16.ENC (R101) -/
  | lf16Enc (val : F32)
  /-- LFX16.DEC (R120) -/
  | lfx16Dec (raw : Half) (exp : Byte)
  /-- LFX16.ENC (R121) -/
  | lfx16Enc (val : F32) (exp : Byte)
  /-- DIR.DEC (R142) -/
  | dirDec (coef : Coefficients) (raw : Half)
  /-- DIR.ENC (R143) -/
  | dirEnc (coef : Coefficients) (val : F32)
  /-- DIR.COEF (R144) -/
  | dirCoef (buf : BitVec 40) (len : Byte)
  /-- VM.DEC (R170) -/
  | vmDec (raw : Byte)
  /-- VM.ENC (R171) -/
  | vmEnc (mode : ModeSelection)
  /-- ST.DEC.BYTE (R193) -/
  | stDecByte (raw : Byte)
  /-- ST.DEC.WORD (R194) -/
  | stDecWord (raw : Half)
  /-- ST.DEC.VOUT (R195) -/
  | stDecVout (raw : Byte)
  /-- ST.DEC.IOUT (R196) -/
  | stDecIout (raw : Byte)
  /-- ST.DEC.INPUT (R197) -/
  | stDecInput (raw : Byte)
  /-- ST.DEC.TEMP (R198) -/
  | stDecTemp (raw : Byte)
  /-- ST.DEC.CML (R199) -/
  | stDecCml (raw : Byte)
  /-- ST.DEC.MFR (R200) -/
  | stDecMfr (raw : Byte)
  /-- ST.DEC.FANS12 (R201) -/
  | stDecFans12 (raw : Byte)
  /-- ST.DEC.FANS34 (R202) -/
  | stDecFans34 (raw : Byte)
  /-- ST.BITS.BYTE (R203) -/
  | stBitsByte (raw : Byte)
  /-- ST.BITS.WORD (R203) -/
  | stBitsWord (raw : Half)
  /-- ST.BITS.VOUT (R203) -/
  | stBitsVout (raw : Byte)
  /-- ST.BITS.IOUT (R203) -/
  | stBitsIout (raw : Byte)
  /-- ST.BITS.INPUT (R203) -/
  | stBitsInput (raw : Byte)
  /-- ST.BITS.TEMP (R203) -/
  | stBitsTemp (raw : Byte)
  /-- ST.BITS.CML (R203) -/
  | stBitsCml (raw : Byte)
  /-- ST.BITS.MFR (R203) -/
  | stBitsMfr (raw : Byte)
  /-- ST.BITS.FANS12 (R203) -/
  | stBitsFans12 (raw : Byte)
  /-- ST.BITS.FANS34 (R203) -/
  | stBitsFans34 (raw : Byte)
  /-- ST.TEST.BYTE (R204) -/
  | stTestByte (raw : Byte) (flag : BitVec 4)
  /-- ST.TEST.WORD (R204) -/
  | stTestWord (raw : Half) (flag : BitVec 4)
  /-- ST.TEST.VOUT (R204) -/
  | stTestVout (raw : Byte) (flag : BitVec 4)
  /-- ST.TEST.IOUT (R204) -/
  | stTestIout (raw : Byte) (flag : BitVec 4)
  /-- ST.TEST.INPUT (R204) -/
  | stTestInput (raw : Byte) (flag : BitVec 4)
  /-- ST.TEST.TEMP (R204) -/
  | stTestTemp (raw : Byte) (flag : BitVec 4)
  /-- ST.TEST.CML (R204) -/
  | stTestCml (raw : Byte) (flag : BitVec 4)
  /-- ST.TEST.MFR (R204) -/
  | stTestMfr (raw : Byte) (flag : BitVec 4)
  /-- ST.TEST.FANS12 (R204) -/
  | stTestFans12 (raw : Byte) (flag : BitVec 4)
  /-- ST.TEST.FANS34 (R204) -/
  | stTestFans34 (raw : Byte) (flag : BitVec 4)
deriving DecidableEq, Repr

end Sys2Proof
end

