-- ==== Sys2Proof/WellFormed.lean ====
section
/-! DEFINITION. Well-formed instructions. Every operand of `Instr` has the exact width of its port, so the encoding
itself admits every term (spec/30_encoding.md R76). What remains to check is what the source's own types and
preconditions ask of the caller and the ports do not enforce:
  * DIR.DEC: m is not 0 (spec/42_directlinear.md R145);
  * VM.ENC: the record is one VM.DEC can produce (spec/43_vout_mode.md R171 (a), U4);
  * ST.BITS, ST.TEST: the value holds vocabulary bits only (spec/44_status.md R190, R203 (a));
  * ST.TEST: the flag is a member of the vocabulary (R204 (b), U16).
The block answers an ill-formed instruction too (R145, D15, D16): no meaning, and no step, looks at this check. -/

namespace Sys2Proof

/-- A ModeSelection VM.DEC can produce: an exponent in -16..15, or a code in 0..31 (R170). -/
def ModeSelection.wellFormed (x : ModeSelection) : Bool :=
  match x.variant with
  | .fixedExponent e => decide (-16 ≤ e.toInt ∧ e.toInt ≤ 15)
  | .vidCode c => decide (c.toNat ≤ 31)
  | .directFormat => true
  | .ieeeHalfFormat => true

/-- A byte status value holds no bit outside its register's mask (R190). -/
def byteInVocabulary (mask v : Byte) : Bool := v &&& ~~~mask == 0

/-- The flag is a position of an 8-bit register's vocabulary (R204). -/
def flagInVocabulary (mask : Byte) (flag : BitVec 4) : Bool := mask.getLsbD flag.toNat

/-- The check. -/
def Instr.wellFormed : Instr → Bool
  | .lf16Dec _ => true
  | .lf16Enc _ => true
  | .lfx16Dec _ _ => true
  | .lfx16Enc _ _ => true
  | .dirDec coef _ => coef.m != 0
  | .dirEnc _ _ => true
  | .dirCoef _ _ => true
  | .vmDec _ => true
  | .vmEnc mode => mode.wellFormed
  | .stDecByte _ => true
  | .stDecWord _ => true
  | .stDecVout _ => true
  | .stDecIout _ => true
  | .stDecInput _ => true
  | .stDecTemp _ => true
  | .stDecCml _ => true
  | .stDecMfr _ => true
  | .stDecFans12 _ => true
  | .stDecFans34 _ => true
  | .stBitsByte raw => byteInVocabulary 0xFF raw
  | .stBitsWord _ => true
  | .stBitsVout raw => byteInVocabulary 0xFF raw
  | .stBitsIout raw => byteInVocabulary 0xFF raw
  | .stBitsInput raw => byteInVocabulary 0xFF raw
  | .stBitsTemp raw => byteInVocabulary Config.maskTemp raw
  | .stBitsCml raw => byteInVocabulary Config.maskCml raw
  | .stBitsMfr raw => byteInVocabulary 0xFF raw
  | .stBitsFans12 raw => byteInVocabulary Config.maskFans12 raw
  | .stBitsFans34 raw => byteInVocabulary Config.maskFans34 raw
  | .stTestByte raw flag => byteInVocabulary 0xFF raw && flagInVocabulary 0xFF flag
  | .stTestWord _ _ => true
  | .stTestVout raw flag => byteInVocabulary 0xFF raw && flagInVocabulary 0xFF flag
  | .stTestIout raw flag => byteInVocabulary 0xFF raw && flagInVocabulary 0xFF flag
  | .stTestInput raw flag => byteInVocabulary 0xFF raw && flagInVocabulary 0xFF flag
  | .stTestTemp raw flag => byteInVocabulary Config.maskTemp raw && flagInVocabulary Config.maskTemp flag
  | .stTestCml raw flag => byteInVocabulary Config.maskCml raw && flagInVocabulary Config.maskCml flag
  | .stTestMfr raw flag => byteInVocabulary 0xFF raw && flagInVocabulary 0xFF flag
  | .stTestFans12 raw flag => byteInVocabulary Config.maskFans12 raw && flagInVocabulary Config.maskFans12 flag
  | .stTestFans34 raw flag => byteInVocabulary Config.maskFans34 raw && flagInVocabulary Config.maskFans34 flag

end Sys2Proof
end

