-- ==== Sys2Proof/Decode.lean ====
section
/-! DEFINITION. Decoding and encoding requests (spec/30_encoding.md R60 to R63, R67 to R69). The decoder is total on
request records and on their 167 bits, and rejects a reserved `op` by name (R62). The encoder follows it. -/

namespace Sys2Proof

/-! ## Packed operand records -/

/-- The coefficient record on a 40-bit port: `{R[7:0], b[15:0], m[15:0]}` (R67). -/
def packCoef (c : Coefficients) : BitVec 40 := c.r ++ c.b ++ c.m

/-- The fields of a 40-bit coefficient record (R67). -/
def unpackCoef (x : BitVec 40) : Coefficients :=
  { m := x.extractLsb' 0 16, b := x.extractLsb' 16 16, r := x.extractLsb' 32 8 }

/-- The ModeSelection on an 11-bit port: `{rel, variant[1:0], param[7:0]}`; the two variants without a parameter show 0
(R69, D17). -/
def packMode (x : ModeSelection) : BitVec 11 :=
  let rel := BitVec.ofBool x.relative
  match x.variant with
  | .fixedExponent e => rel ++ 0#2 ++ e
  | .vidCode c => rel ++ 1#2 ++ c
  | .directFormat => rel ++ 2#2 ++ 0#8
  | .ieeeHalfFormat => rel ++ 3#2 ++ 0#8

/-- The ModeSelection an 11-bit port holds; `param` is ignored for the two variants without a parameter (R69). -/
def unpackMode (x : BitVec 11) : ModeSelection :=
  let param : Byte := x.extractLsb' 0 8
  let variant : BitVec 2 := x.extractLsb' 8 2
  { relative := x.getLsbD 10
    variant :=
      if variant = 0#2 then .fixedExponent param
      else if variant = 1#2 then .vidCode param
      else if variant = 2#2 then .directFormat
      else .ieeeHalfFormat }

/-! ## A request as 167 bits

R60 gives the length and the ports in order; that the first port lies in the lowest bits is the model's numbering
(log entry 4, DESIGN CHOICE), the one under which bits 7:0 are the `op` byte that spec/opcode_table.json numbers. -/

/-- A port's bits from position `offset` of the 167 on. -/
def placePort {w : Nat} (offset : Nat) (x : BitVec w) : BitVec 167 := x.setWidth 167 <<< offset

/-- The 167 bits of a request record: each port from the position at which the one before it ends. -/
def requestToBits (q : Request) : BitVec 167 :=
  placePort 0 q.op ||| placePort 8 q.raw ||| placePort 24 q.val ||| placePort 56 q.exp ||| placePort 64 q.coef |||
    placePort 104 q.buf ||| placePort 144 q.len ||| placePort 152 q.mode ||| placePort 163 q.flag

/-- The request record of 167 bits. -/
def requestOfBits (x : BitVec 167) : Request :=
  { op := x.extractLsb' 0 8
    raw := x.extractLsb' 8 16
    val := x.extractLsb' 24 32
    exp := x.extractLsb' 56 8
    coef := x.extractLsb' 64 40
    buf := x.extractLsb' 104 40
    len := x.extractLsb' 144 8
    mode := x.extractLsb' 152 11
    flag := x.extractLsb' 163 4 }

/-! ## The decoder -/

/-- Why a request is no instruction. -/
inductive DecodeError where
  /-- `op` is not one of the 39 values of R61 (R62) -/
  | illegalOp (op : Byte)
deriving DecidableEq, Repr

/-- The byte operand of a one-byte register: `raw[7:0]`; `raw[15:8]` is ignored (R27). -/
def rawByte (q : Request) : Byte := q.raw.extractLsb' 0 8

/-- The operation map of R61: `op` selects the operation, which picks up the ports its format names (R60); every other
value of `op` is reserved (R62). -/
def decode (q : Request) : Except DecodeError Instr :=
  match q.op.toNat with
  | 0x00 => .ok (.lf16Dec q.raw)
  | 0x01 => .ok (.lf16Enc q.val)
  | 0x10 => .ok (.lfx16Dec q.raw q.exp)
  | 0x11 => .ok (.lfx16Enc q.val q.exp)
  | 0x20 => .ok (.dirDec (unpackCoef q.coef) q.raw)
  | 0x21 => .ok (.dirEnc (unpackCoef q.coef) q.val)
  | 0x22 => .ok (.dirCoef q.buf q.len)
  | 0x30 => .ok (.vmDec (rawByte q))
  | 0x31 => .ok (.vmEnc (unpackMode q.mode))
  | 0x40 => .ok (.stDecByte (rawByte q))
  | 0x41 => .ok (.stDecWord q.raw)
  | 0x42 => .ok (.stDecVout (rawByte q))
  | 0x43 => .ok (.stDecIout (rawByte q))
  | 0x44 => .ok (.stDecInput (rawByte q))
  | 0x45 => .ok (.stDecTemp (rawByte q))
  | 0x46 => .ok (.stDecCml (rawByte q))
  | 0x47 => .ok (.stDecMfr (rawByte q))
  | 0x48 => .ok (.stDecFans12 (rawByte q))
  | 0x49 => .ok (.stDecFans34 (rawByte q))
  | 0x50 => .ok (.stBitsByte (rawByte q))
  | 0x51 => .ok (.stBitsWord q.raw)
  | 0x52 => .ok (.stBitsVout (rawByte q))
  | 0x53 => .ok (.stBitsIout (rawByte q))
  | 0x54 => .ok (.stBitsInput (rawByte q))
  | 0x55 => .ok (.stBitsTemp (rawByte q))
  | 0x56 => .ok (.stBitsCml (rawByte q))
  | 0x57 => .ok (.stBitsMfr (rawByte q))
  | 0x58 => .ok (.stBitsFans12 (rawByte q))
  | 0x59 => .ok (.stBitsFans34 (rawByte q))
  | 0x60 => .ok (.stTestByte (rawByte q) q.flag)
  | 0x61 => .ok (.stTestWord q.raw q.flag)
  | 0x62 => .ok (.stTestVout (rawByte q) q.flag)
  | 0x63 => .ok (.stTestIout (rawByte q) q.flag)
  | 0x64 => .ok (.stTestInput (rawByte q) q.flag)
  | 0x65 => .ok (.stTestTemp (rawByte q) q.flag)
  | 0x66 => .ok (.stTestCml (rawByte q) q.flag)
  | 0x67 => .ok (.stTestMfr (rawByte q) q.flag)
  | 0x68 => .ok (.stTestFans12 (rawByte q) q.flag)
  | 0x69 => .ok (.stTestFans34 (rawByte q) q.flag)
  | _ => .error (.illegalOp q.op)

/-! ## The encoder -/

/-- The `op` byte of an operation (R61). -/
def opcode : Instr → Byte
  | .lf16Dec _ => 0x00
  | .lf16Enc _ => 0x01
  | .lfx16Dec _ _ => 0x10
  | .lfx16Enc _ _ => 0x11
  | .dirDec _ _ => 0x20
  | .dirEnc _ _ => 0x21
  | .dirCoef _ _ => 0x22
  | .vmDec _ => 0x30
  | .vmEnc _ => 0x31
  | .stDecByte _ => 0x40
  | .stDecWord _ => 0x41
  | .stDecVout _ => 0x42
  | .stDecIout _ => 0x43
  | .stDecInput _ => 0x44
  | .stDecTemp _ => 0x45
  | .stDecCml _ => 0x46
  | .stDecMfr _ => 0x47
  | .stDecFans12 _ => 0x48
  | .stDecFans34 _ => 0x49
  | .stBitsByte _ => 0x50
  | .stBitsWord _ => 0x51
  | .stBitsVout _ => 0x52
  | .stBitsIout _ => 0x53
  | .stBitsInput _ => 0x54
  | .stBitsTemp _ => 0x55
  | .stBitsCml _ => 0x56
  | .stBitsMfr _ => 0x57
  | .stBitsFans12 _ => 0x58
  | .stBitsFans34 _ => 0x59
  | .stTestByte _ _ => 0x60
  | .stTestWord _ _ => 0x61
  | .stTestVout _ _ => 0x62
  | .stTestIout _ _ => 0x63
  | .stTestInput _ _ => 0x64
  | .stTestTemp _ _ => 0x65
  | .stTestCml _ _ => 0x66
  | .stTestMfr _ _ => 0x67
  | .stTestFans12 _ _ => 0x68
  | .stTestFans34 _ _ => 0x69

/-- A request with every port 0: the ports an encoding does not use. -/
def blankRequest : Request :=
  { op := 0, raw := 0, val := 0, exp := 0, coef := 0, buf := 0, len := 0, mode := 0, flag := 0 }

/-- The request that asks for an instruction: `op` and the ports its format names (R60, R61), every other port 0. -/
def encode (i : Instr) : Request :=
  match i with
  | .lf16Dec raw => { blankRequest with op := opcode i, raw := raw }
  | .lf16Enc val => { blankRequest with op := opcode i, val := val }
  | .lfx16Dec raw exp => { blankRequest with op := opcode i, raw := raw, exp := exp }
  | .lfx16Enc val exp => { blankRequest with op := opcode i, val := val, exp := exp }
  | .dirDec coef raw => { blankRequest with op := opcode i, coef := packCoef coef, raw := raw }
  | .dirEnc coef val => { blankRequest with op := opcode i, coef := packCoef coef, val := val }
  | .dirCoef buf len => { blankRequest with op := opcode i, buf := buf, len := len }
  | .vmDec raw => { blankRequest with op := opcode i, raw := raw.setWidth 16 }
  | .vmEnc mode => { blankRequest with op := opcode i, mode := packMode mode }
  | .stDecByte raw => { blankRequest with op := opcode i, raw := raw.setWidth 16 }
  | .stDecWord raw => { blankRequest with op := opcode i, raw := raw }
  | .stDecVout raw => { blankRequest with op := opcode i, raw := raw.setWidth 16 }
  | .stDecIout raw => { blankRequest with op := opcode i, raw := raw.setWidth 16 }
  | .stDecInput raw => { blankRequest with op := opcode i, raw := raw.setWidth 16 }
  | .stDecTemp raw => { blankRequest with op := opcode i, raw := raw.setWidth 16 }
  | .stDecCml raw => { blankRequest with op := opcode i, raw := raw.setWidth 16 }
  | .stDecMfr raw => { blankRequest with op := opcode i, raw := raw.setWidth 16 }
  | .stDecFans12 raw => { blankRequest with op := opcode i, raw := raw.setWidth 16 }
  | .stDecFans34 raw => { blankRequest with op := opcode i, raw := raw.setWidth 16 }
  | .stBitsByte raw => { blankRequest with op := opcode i, raw := raw.setWidth 16 }
  | .stBitsWord raw => { blankRequest with op := opcode i, raw := raw }
  | .stBitsVout raw => { blankRequest with op := opcode i, raw := raw.setWidth 16 }
  | .stBitsIout raw => { blankRequest with op := opcode i, raw := raw.setWidth 16 }
  | .stBitsInput raw => { blankRequest with op := opcode i, raw := raw.setWidth 16 }
  | .stBitsTemp raw => { blankRequest with op := opcode i, raw := raw.setWidth 16 }
  | .stBitsCml raw => { blankRequest with op := opcode i, raw := raw.setWidth 16 }
  | .stBitsMfr raw => { blankRequest with op := opcode i, raw := raw.setWidth 16 }
  | .stBitsFans12 raw => { blankRequest with op := opcode i, raw := raw.setWidth 16 }
  | .stBitsFans34 raw => { blankRequest with op := opcode i, raw := raw.setWidth 16 }
  | .stTestByte raw flag => { blankRequest with op := opcode i, raw := raw.setWidth 16, flag := flag }
  | .stTestWord raw flag => { blankRequest with op := opcode i, raw := raw, flag := flag }
  | .stTestVout raw flag => { blankRequest with op := opcode i, raw := raw.setWidth 16, flag := flag }
  | .stTestIout raw flag => { blankRequest with op := opcode i, raw := raw.setWidth 16, flag := flag }
  | .stTestInput raw flag => { blankRequest with op := opcode i, raw := raw.setWidth 16, flag := flag }
  | .stTestTemp raw flag => { blankRequest with op := opcode i, raw := raw.setWidth 16, flag := flag }
  | .stTestCml raw flag => { blankRequest with op := opcode i, raw := raw.setWidth 16, flag := flag }
  | .stTestMfr raw flag => { blankRequest with op := opcode i, raw := raw.setWidth 16, flag := flag }
  | .stTestFans12 raw flag => { blankRequest with op := opcode i, raw := raw.setWidth 16, flag := flag }
  | .stTestFans34 raw flag => { blankRequest with op := opcode i, raw := raw.setWidth 16, flag := flag }

/-! ## The numbering of spec/opcode_table.json -/

/-- The request whose lowest `nbits` bits are those of `w` and whose other bits are 0. -/
def tableRequest (nbits w : Nat) : Request :=
  requestOfBits (BitVec.ofNat 167 (w % 2 ^ nbits))

/-- The instruction the decoder reads from the bits `w` of a table row. -/
def decodeTableWord (nbits w : Nat) : Option Instr :=
  match decode (tableRequest nbits w) with
  | .ok i => some i
  | .error _ => none

end Sys2Proof
end

