-- ==== Sys2Proof/Machine/State.lean ====
section
/-! DEFINITION. What the machine holds. The block itself has no register, no program counter, no memory and no flag
(spec/10_state.md R20 to R26, R32); what a step reads and drives are the ports of R27 and R28, and they are the whole
state of the model. -/

namespace Sys2Proof.Machine

/-- The statuses of R231 that carry no result. -/
inductive ErrorKind where
  /-- a physical value cannot be represented in the target format (R232) -/
  | encodingError
  /-- a coefficients response is shorter than five bytes (R233) -/
  | invalidResponseLength
  /-- `req.op` is a reserved value (R234) -/
  | illegalOp
deriving DecidableEq, Repr

/-- A response record: `rsp.status` and, when it is `OK`, `rsp.res` (R28). With another status there is no result and
the model gives `rsp.res` no value (R28, R235, D6). -/
inductive Response where
  /-- status `OK` with the 40 bits of `rsp.res` -/
  | ok (res : Res)
  /-- a status other than `OK` -/
  | error (kind : ErrorKind)
deriving DecidableEq, Repr

/-- The ports. `req` is the request the host holds on the input ports, none while no request is in progress; the block
never changes it. `rsp` is the response on the output ports, none before the first one is delivered. How long either
stays there is not the spec's: log entries 2 and 27. -/
structure State where
  req : Option Request
  rsp : Option Response
deriving DecidableEq, Repr

/-- The block never stops: an error is a response (R230, R239), and every request is answered (R274). So there is no
fault, and this type has no constructor. -/
inductive Fault where
deriving DecidableEq, Repr

/-- Reasons for which the model gives an instruction no meaning. -/
inductive Refusal where
  /-- raised by `exec` alone, for an instruction that has no meaning yet; safe, since nothing follows from it. No arm
  of `exec` raises it. -/
  | notModelled (mnemonic : String)
deriving DecidableEq, Repr

/-- After reset no request is in progress, and there is no register, flag or field to initialise
(spec/70_reset_and_hazards.md R260). DESIGN CHOICE (log entry 27): no response stands on the output ports after reset;
R260 does not say what they show. -/
def State.reset : State := { req := none, rsp := none }

end Sys2Proof.Machine
end

