-- ==== Sys2Proof/Machine/Flags.lean ====
section
/-! DEFINITION. The response ports as bits. The block has no flag and no condition code (spec/10_state.md R23): no
operation computes one, and `rsp.status` is the only condition it reports (spec/60_exceptions.md R231). -/

namespace Sys2Proof.Machine

/-- The 2-bit status code of an error (R231). -/
def ErrorKind.code : ErrorKind → BitVec 2
  | .encodingError => 1
  | .invalidResponseLength => 2
  | .illegalOp => 3

/-- `rsp.status[1:0]` (R28, R231). -/
def Response.status : Response → BitVec 2
  | .ok _ => 0
  | .error e => e.code

/-- `rsp.res[39:0]`, which has a value only with status `OK` (R28, R235). -/
def Response.result? : Response → Option Res
  | .ok v => some v
  | .error _ => none

end Sys2Proof.Machine
end

