-- ==== Sys2Proof/Machine/Numeric.lean ====
section
/-! DEFINITION. Exact arithmetic and binary32 (spec/00_scope.md R9 to R12, spec/30_encoding.md R71). `Int` is the
spec's `Z` and `Rat` its `Q`: nothing here wraps or rounds but `rhaz` and `rne32` (`NUM = exact_round_once`, D4). -/

namespace Sys2Proof.Machine

/-- `2^n` for any integer n (R11). -/
def pow2 : Int → Rat
  | .ofNat k => ((2 ^ k : Nat) : Rat)
  | .negSucc k => 1 / ((2 ^ (k + 1) : Nat) : Rat)

/-- `10^n` for any integer n (R11). -/
def pow10 : Int → Rat
  | .ofNat k => ((10 ^ k : Nat) : Rat)
  | .negSucc k => 1 / ((10 ^ (k + 1) : Nat) : Rat)

/-- The magnitude of a rational. -/
def magnitude (q : Rat) : Rat := if q < 0 then -q else q

/-- Round half away from zero (R12). -/
def rhaz (q : Rat) : Int :=
  if 0 ≤ q then (q + 1 / 2).floor else -((-q + 1 / 2).floor)

/-! ## The binary32 format (R71) -/

/-- The sign bit, bit 31. -/
def f32Sign (f : F32) : Bool := f.getLsbD 31

/-- The biased exponent, bits 30:23. -/
def f32Exp (f : F32) : Nat := (f.extractLsb' 23 8).toNat

/-- The fraction, bits 22:0. -/
def f32Frac (f : F32) : Nat := (f.extractLsb' 0 23).toNat

/-- A NaN of any kind, sign and payload. -/
def isNaN (f : F32) : Bool := f32Exp f == 255 && f32Frac f != 0

/-- An infinity of either sign. -/
def isInf (f : F32) : Bool := f32Exp f == 255 && f32Frac f == 0

/-- Neither a NaN nor an infinity. -/
def isFinite (f : F32) : Bool := f32Exp f != 255

/-- The magnitude a finite binary32 denotes: `2^(e-150) × (2^23 + f)`, and `2^(-149) × f` for e = 0. -/
def realMagnitude (f : F32) : Rat :=
  if f32Exp f = 0 then (f32Frac f : Rat) * pow2 (-149)
  else ((2 ^ 23 + f32Frac f : Nat) : Rat) * pow2 ((f32Exp f : Int) - 150)

/-- The exact rational a finite binary32 denotes; both zeros denote 0 (R11, R71). -/
def real (f : F32) : Rat := if f32Sign f then -realMagnitude f else realMagnitude f

/-! ## Rounding an exact rational to binary32 (R11)

The spec says what the result is (the nearest binary32, a tie to the even fraction, subnormals kept, infinity from
2^128 - 2^103 on); how it is found below is the model's way. -/

/-- The integer e with `2^e ≤ a < 2^(e+1)`, for a positive rational a. -/
def floorLog2 (a : Rat) : Int :=
  let l : Int := (a.num.natAbs.log2 : Int) - (a.den.log2 : Int)
  if pow2 l ≤ a then l else l - 1

/-- The exponent of the last place binary32 keeps at a positive magnitude a: 23 places below the leading one, and
never below the subnormal quantum 2^(-149). -/
def lastPlace (a : Rat) : Int := max (floorLog2 a - 23) (-149)

/-- The nearest integer, a tie going to the even one. -/
def roundHalfEven (x : Rat) : Int :=
  let n := x.floor
  let d := x - n
  if d < 1 / 2 then n
  else if 1 / 2 < d then n + 1
  else if n % 2 = 0 then n
  else n + 1

/-- The bit pattern of a positive magnitude below the overflow bound. With k the last place and n the rounded number
of last places, the pattern is `(k + 149) × 2^23 + n`: a normal n has its leading one added into the exponent field,
a subnormal one (k = -149) stands alone, and a carry to 2^24 steps to the next exponent. -/
def roundMagnitude (a : Rat) : F32 :=
  let k := lastPlace a
  BitVec.ofInt 32 ((k + 149) * 2 ^ 23 + roundHalfEven (a / pow2 k))

/-- `2^128 - 2^103`: from this magnitude on the result is an infinity (R11). -/
def overflowBound : Rat := pow2 128 - pow2 103

/-- The binary32 nearest a rational (R11). -/
def rne32 (q : Rat) : F32 :=
  if q = 0 then 0x00000000#32
  else
    let a := magnitude q
    let bits : F32 := if overflowBound ≤ a then 0x7F800000#32 else roundMagnitude a
    if q < 0 then bits ||| 0x80000000#32 else bits

end Sys2Proof.Machine
end

