-- ==== Sys2Proof/Machine/Operands.lean ====
section
/-! DEFINITION. How each field of a port becomes an operand (spec/30_encoding.md R63, R64 to R67, R73; spec/20_memory.md
R42; spec/44_status.md R190, R192). -/

namespace Sys2Proof.Machine

/-! ## Linear formats (R64, R65, R73) -/

/-- The exponent N of a LinearFloat16 word: `sext_5(raw[15:11])`. -/
def lf16Exponent (raw : Half) : Int := (raw.extractLsb' 11 5).toInt

/-- The mantissa Y of a LinearFloat16 word: `sext_11(raw[10:0])`. -/
def lf16Mantissa (raw : Half) : Int := (raw.extractLsb' 0 11).toInt

/-- The LinearFloat16 word of an exponent and a mantissa: `{trunc_5(N), trunc_11(Y)}` (R101). -/
def lf16Word (n y : Int) : Half := BitVec.ofInt 5 n ++ BitVec.ofInt 11 y

/-- The value V of a LinearFixed16 word: never signed. -/
def lfx16Value (raw : Half) : Int := (raw.toNat : Int)

/-- The LinearFixed16 exponent N: i8, not validated. -/
def lfx16Exponent (exp : Byte) : Int := exp.toInt

/-! ## DirectLinear (R66, R67, R140, R73) -/

/-- The DirectLinear register as an i16. -/
def dirRaw (raw : Half) : Int := raw.toInt

/-- The slope m as an i16. -/
def coefM (c : Coefficients) : Int := c.m.toInt

/-- The offset b as an i16. -/
def coefB (c : Coefficients) : Int := c.b.toInt

/-- The decimal exponent R as an i8. -/
def coefR (c : Coefficients) : Int := c.r.toInt

/-! ## The coefficients buffer (R42) -/

/-- `byte(i)`: `req.buf[8i+7:8i]`. -/
def bufByte (buf : BitVec 40) (i : Nat) : Byte := buf.extractLsb' (8 * i) 8

/-- `MemRead(a, 1)`. -/
def memRead1 (buf : BitVec 40) (a : Nat) : Byte := bufByte buf a

/-- `MemRead(a, 2)`, little-endian: byte a is the low byte. -/
def memRead2 (buf : BitVec 40) (a : Nat) : BitVec 16 := bufByte buf (a + 1) ++ bufByte buf a

/-! ## Status registers (R63, R190, R192) -/

/-- `W[r]`: 16 for the word-extended register, 8 for the others. -/
def statusWidth : StatusReg → Nat
  | .word => 16
  | .byte => 8
  | .vout => 8
  | .iout => 8
  | .input => 8
  | .temp => 8
  | .cml => 8
  | .mfr => 8
  | .fans12 => 8
  | .fans34 => 8

/-- `MASK[r]`, zero-extended to 16 bits (the table of R192). -/
def statusMask : StatusReg → Half
  | .byte => 0x00FF
  | .word => 0xFFFF
  | .vout => 0x00FF
  | .iout => 0x00FF
  | .input => 0x00FF
  | .temp => Config.maskTemp.setWidth 16
  | .cml => Config.maskCml.setWidth 16
  | .mfr => 0x00FF
  | .fans12 => Config.maskFans12.setWidth 16
  | .fans34 => Config.maskFans34.setWidth 16

/-- A raw value AND the register's mask; bits outside the vocabulary are dropped, none is moved (R73, R75). -/
def statusValue (r : StatusReg) (raw : Half) : Half := raw &&& statusMask r

end Sys2Proof.Machine
end

