-- ==== Sys2Proof/Machine/Ops.lean ====
section
/-! DEFINITION. The operations every meaning is made of: reading the request ports, driving the response ports, and
raising an error (spec/00_scope.md R13). There is no return from an error (spec/60_exceptions.md R240): nothing was
saved and the next request is served like any other. -/

namespace Sys2Proof.Machine

/-- The outcome of a step of this machine. -/
abbrev Outcome := Host.Outcome State Fault Refusal

/-- The request on the input ports, if one is in progress. -/
def fetch (s : State) : Option Request := s.req

/-- The host puts a request on the input ports. -/
def State.present (s : State) (q : Request) : State := { s with req := some q }

/-- The state in which a response has been driven. -/
def State.answer (s : State) (r : Response) : State := { s with rsp := some r }

/-- `return v`: status `OK` and the result in the low bits of `rsp.res`, zero above (R13, R72). -/
def okResponse {w : Nat} (v : BitVec w) : Response := .ok (v.setWidth 40)

/-- `raise <Error>`, which is all there is to taking an exception here: the response carries the error's status and no
result; nothing is saved, no mode changes, control goes nowhere (R13, R230, R235, R239). -/
def raiseError (e : ErrorKind) (s : State) : Outcome := .next (s.answer (.error e))

/-- The response of an operation that returns a value or raises an error. -/
def responseOf {w : Nat} : Except ErrorKind (BitVec w) → Response
  | .ok v => okResponse v
  | .error e => .error e

/-- Ends a total operation: drives its result. -/
def respond {w : Nat} (v : BitVec w) (s : State) : Outcome := .next (s.answer (okResponse v))

/-- Ends an operation that can raise an error: drives its result or raises it. -/
def deliver {w : Nat} (r : Except ErrorKind (BitVec w)) (s : State) : Outcome := .next (s.answer (responseOf r))

/-- A request with a reserved `op` raises `IllegalOp` (R62, R234). -/
def rejectRequest (e : DecodeError) (s : State) : Outcome :=
  match e with
  | .illegalOp _ => raiseError .illegalOp s

/-- With no request in progress the block does nothing: it has no event of its own (R241; log entry 3). -/
def idle (s : State) : Outcome := .next s

end Sys2Proof.Machine
end

