-- ==== Sys2Proof/Machine/DirectLinear.lean ====
section
/-! DEFINITION. DIR.DEC, DIR.ENC and DIR.COEF (spec/42_directlinear.md). -/

namespace Sys2Proof.Machine

/-- The power-of-ten scale: exact in -8..8, 1 outside, silently (R141, R147). -/
def dirScale (e : Int) : Rat :=
  if Config.dirRMin ≤ e ∧ e ≤ Config.dirRMax then pow10 e else 1

/-- The exact value of decode, `(y × SCALE(-R) - b) / m` (R142; the sign of the exponent as conflict C1 settles it). -/
def dirDecodeExact (c : Coefficients) (raw : Half) : Rat :=
  ((dirRaw raw : Rat) * dirScale (-(coefR c)) - (coefB c : Rat)) / (coefM c : Rat)

/-- The decoder of R142: one rounding at the end. With m = 0 the 32 bits are unspecified, any value (R145). -/
def dirDecode (c : Coefficients) (raw : Half) : F32 :=
  if c.m = 0 then Config.mZero c.b c.r raw else rne32 (dirDecodeExact c raw)

/-- The exact value of encode before rounding, `(m × v + b) × SCALE(R)`: scaled first, rounded last (R143, C2). -/
def dirEncodeExact (c : Coefficients) (v : Rat) : Rat :=
  ((coefM c : Rat) * v + (coefB c : Rat)) * dirScale (coefR c)

/-- The encoder of R143: not finite, or outside the i16 range after rounding, is an error. m = 0 is not excluded
(D29). -/
def dirEncode (c : Coefficients) (val : F32) : Except ErrorKind Half :=
  if isNaN val || isInf val then .error .encodingError
  else
    let y := rhaz (dirEncodeExact c (real val))
    if y < Config.dirRawMin ∨ Config.dirRawMax < y then .error .encodingError
    else .ok (BitVec.ofInt 16 y)

/-- The parser of R144: the length check comes before any byte is read (R222). -/
def dirParse (buf : BitVec 40) (len : Byte) : Except ErrorKind (BitVec 40) :=
  if len.toNat < Config.coefLenMin then .error .invalidResponseLength
  else
    .ok (packCoef { m := memRead2 buf 0, b := memRead2 buf 2, r := memRead1 buf 4 })

/-- DIR.DEC (R142). -/
def execDirDec (coef : Coefficients) (raw : Half) (s : State) : Outcome := respond (dirDecode coef raw) s

/-- DIR.ENC (R143). -/
def execDirEnc (coef : Coefficients) (val : F32) (s : State) : Outcome := deliver (dirEncode coef val) s

/-- DIR.COEF (R144). -/
def execDirCoef (buf : BitVec 40) (len : Byte) (s : State) : Outcome := deliver (dirParse buf len) s

end Sys2Proof.Machine
end

