-- ==== Sys2Proof/Machine/LinearFixed16.lean ====
section
/-! DEFINITION. LFX16.DEC and LFX16.ENC (spec/41_linearfixed16.md). -/

namespace Sys2Proof.Machine

/-- V × 2^N, rounded once; a product beyond binary32 gives +Infinity (R120, D9). -/
def lfx16Decode (raw : Half) (exp : Byte) : F32 :=
  rne32 ((lfx16Value raw : Rat) * pow2 (lfx16Exponent exp))

/-- The encoder of R121: not finite, below zero, or above 65535 after rounding is an error. -/
def lfx16Encode (val : F32) (exp : Byte) : Except ErrorKind Half :=
  if isNaN val || isInf val then .error .encodingError
  else
    let v := real val
    if v < 0 then .error .encodingError
    else
      let r := rhaz (v / pow2 (lfx16Exponent exp))
      if Config.lfx16RawMax < r then .error .encodingError
      else .ok (BitVec.ofInt 16 r)

/-- LFX16.DEC (R120). -/
def execLfx16Dec (raw : Half) (exp : Byte) (s : State) : Outcome := respond (lfx16Decode raw exp) s

/-- LFX16.ENC (R121). -/
def execLfx16Enc (val : F32) (exp : Byte) (s : State) : Outcome := deliver (lfx16Encode val exp) s

end Sys2Proof.Machine
end

