-- ==== Sys2Proof/Machine/LinearFloat16.lean ====
section
/-! DEFINITION. LF16.DEC and LF16.ENC (spec/40_linearfloat16.md). -/

namespace Sys2Proof.Machine

/-- Y × 2^N, rounded once (R100). -/
def lf16Decode (raw : Half) : F32 := rne32 ((lf16Mantissa raw : Rat) * pow2 (lf16Exponent raw))

/-- A candidate of the search: its exponent, its mantissa and its reconstruction error (R101). -/
structure Lf16Candidate where
  n : Int
  y : Int
  err : Rat
deriving DecidableEq, Repr

/-- The exponents of the search in ascending order: -16, -15, ..., 15 (R101). -/
def lf16Exponents : List Int :=
  (List.range (Config.lf16ExpMax - Config.lf16ExpMin + 1).toNat).map fun k => Config.lf16ExpMin + (k : Int)

/-- One turn of the search: the candidate at exponent n replaces the best one only if its mantissa is in range and
its error is strictly less, so the first minimal exponent wins a tie (R101, D27). -/
def lf16Try (v : Rat) (best : Option Lf16Candidate) (n : Int) : Option Lf16Candidate :=
  let y := rhaz (v / pow2 n)
  if y < Config.lf16MantMin ∨ Config.lf16MantMax < y then best
  else
    let err := magnitude (v - (y : Rat) * pow2 n)
    match best with
    | none => some { n := n, y := y, err := err }
    | some b => if err < b.err then some { n := n, y := y, err := err } else some b

/-- The search over all exponents (R101). -/
def lf16Search (v : Rat) : Option Lf16Candidate := lf16Exponents.foldl (lf16Try v) none

/-- The encoder of R101: not finite is an error, both zeros give the all-zero word (D8), and otherwise the search's
candidate is packed. -/
def lf16Encode (val : F32) : Except ErrorKind Half :=
  if isNaN val || isInf val then .error .encodingError
  else
    let v := real val
    if v = 0 then .ok 0x0000#16
    else
      match lf16Search v with
      | none => .error .encodingError
      | some c => .ok (lf16Word c.n c.y)

/-- LF16.DEC (R100). -/
def execLf16Dec (raw : Half) (s : State) : Outcome := respond (lf16Decode raw) s

/-- LF16.ENC (R101). -/
def execLf16Enc (val : F32) (s : State) : Outcome := deliver (lf16Encode val) s

end Sys2Proof.Machine
end

