-- ==== Sys2Proof/Machine/Status.lean ====
section
/-! DEFINITION. ST.DEC.r, ST.BITS.r and ST.TEST.r for the ten status registers (spec/44_status.md). -/

namespace Sys2Proof.Machine

/-- `decode(raw)`: keeps the vocabulary bits and drops the others (R190, R193 to R202). -/
def statusDecode (r : StatusReg) (raw : Half) : Half := statusValue r raw

/-- `bits(value)`: the set vocabulary bits as a raw integer; the value is re-masked (R203, D15). -/
def statusBits (r : StatusReg) (value : Half) : Half := statusValue r value

/-- `contains(flag)`: bit i of the re-masked value; a position outside the vocabulary answers 0 (R204, D15). -/
def statusTest (r : StatusReg) (value : Half) (flag : BitVec 4) : BitVec 1 :=
  BitVec.ofBool ((statusValue r value).getLsbD flag.toNat)

/-- ST.DEC.BYTE (R193). -/
def execStDecByte (raw : Byte) (s : State) : Outcome := respond (statusDecode .byte (raw.setWidth 16)) s

/-- ST.DEC.WORD (R194). -/
def execStDecWord (raw : Half) (s : State) : Outcome := respond (statusDecode .word raw) s

/-- ST.DEC.VOUT (R195). -/
def execStDecVout (raw : Byte) (s : State) : Outcome := respond (statusDecode .vout (raw.setWidth 16)) s

/-- ST.DEC.IOUT (R196). -/
def execStDecIout (raw : Byte) (s : State) : Outcome := respond (statusDecode .iout (raw.setWidth 16)) s

/-- ST.DEC.INPUT (R197). -/
def execStDecInput (raw : Byte) (s : State) : Outcome := respond (statusDecode .input (raw.setWidth 16)) s

/-- ST.DEC.TEMP (R198). -/
def execStDecTemp (raw : Byte) (s : State) : Outcome := respond (statusDecode .temp (raw.setWidth 16)) s

/-- ST.DEC.CML (R199). -/
def execStDecCml (raw : Byte) (s : State) : Outcome := respond (statusDecode .cml (raw.setWidth 16)) s

/-- ST.DEC.MFR (R200). -/
def execStDecMfr (raw : Byte) (s : State) : Outcome := respond (statusDecode .mfr (raw.setWidth 16)) s

/-- ST.DEC.FANS12 (R201). -/
def execStDecFans12 (raw : Byte) (s : State) : Outcome := respond (statusDecode .fans12 (raw.setWidth 16)) s

/-- ST.DEC.FANS34 (R202). -/
def execStDecFans34 (raw : Byte) (s : State) : Outcome := respond (statusDecode .fans34 (raw.setWidth 16)) s

/-- ST.BITS.BYTE (R203). -/
def execStBitsByte (raw : Byte) (s : State) : Outcome := respond (statusBits .byte (raw.setWidth 16)) s

/-- ST.BITS.WORD (R203). -/
def execStBitsWord (raw : Half) (s : State) : Outcome := respond (statusBits .word raw) s

/-- ST.BITS.VOUT (R203). -/
def execStBitsVout (raw : Byte) (s : State) : Outcome := respond (statusBits .vout (raw.setWidth 16)) s

/-- ST.BITS.IOUT (R203). -/
def execStBitsIout (raw : Byte) (s : State) : Outcome := respond (statusBits .iout (raw.setWidth 16)) s

/-- ST.BITS.INPUT (R203). -/
def execStBitsInput (raw : Byte) (s : State) : Outcome := respond (statusBits .input (raw.setWidth 16)) s

/-- ST.BITS.TEMP (R203). -/
def execStBitsTemp (raw : Byte) (s : State) : Outcome := respond (statusBits .temp (raw.setWidth 16)) s

/-- ST.BITS.CML (R203). -/
def execStBitsCml (raw : Byte) (s : State) : Outcome := respond (statusBits .cml (raw.setWidth 16)) s

/-- ST.BITS.MFR (R203). -/
def execStBitsMfr (raw : Byte) (s : State) : Outcome := respond (statusBits .mfr (raw.setWidth 16)) s

/-- ST.BITS.FANS12 (R203). -/
def execStBitsFans12 (raw : Byte) (s : State) : Outcome := respond (statusBits .fans12 (raw.setWidth 16)) s

/-- ST.BITS.FANS34 (R203). -/
def execStBitsFans34 (raw : Byte) (s : State) : Outcome := respond (statusBits .fans34 (raw.setWidth 16)) s

/-- ST.TEST.BYTE (R204). -/
def execStTestByte (raw : Byte) (flag : BitVec 4) (s : State) : Outcome :=
  respond (statusTest .byte (raw.setWidth 16) flag) s

/-- ST.TEST.WORD (R204). -/
def execStTestWord (raw : Half) (flag : BitVec 4) (s : State) : Outcome :=
  respond (statusTest .word raw flag) s

/-- ST.TEST.VOUT (R204). -/
def execStTestVout (raw : Byte) (flag : BitVec 4) (s : State) : Outcome :=
  respond (statusTest .vout (raw.setWidth 16) flag) s

/-- ST.TEST.IOUT (R204). -/
def execStTestIout (raw : Byte) (flag : BitVec 4) (s : State) : Outcome :=
  respond (statusTest .iout (raw.setWidth 16) flag) s

/-- ST.TEST.INPUT (R204). -/
def execStTestInput (raw : Byte) (flag : BitVec 4) (s : State) : Outcome :=
  respond (statusTest .input (raw.setWidth 16) flag) s

/-- ST.TEST.TEMP (R204). -/
def execStTestTemp (raw : Byte) (flag : BitVec 4) (s : State) : Outcome :=
  respond (statusTest .temp (raw.setWidth 16) flag) s

/-- ST.TEST.CML (R204). -/
def execStTestCml (raw : Byte) (flag : BitVec 4) (s : State) : Outcome :=
  respond (statusTest .cml (raw.setWidth 16) flag) s

/-- ST.TEST.MFR (R204). -/
def execStTestMfr (raw : Byte) (flag : BitVec 4) (s : State) : Outcome :=
  respond (statusTest .mfr (raw.setWidth 16) flag) s

/-- ST.TEST.FANS12 (R204). -/
def execStTestFans12 (raw : Byte) (flag : BitVec 4) (s : State) : Outcome :=
  respond (statusTest .fans12 (raw.setWidth 16) flag) s

/-- ST.TEST.FANS34 (R204). -/
def execStTestFans34 (raw : Byte) (flag : BitVec 4) (s : State) : Outcome :=
  respond (statusTest .fans34 (raw.setWidth 16) flag) s

end Sys2Proof.Machine
end

