-- ==== Sys2Proof/Machine/VoutMode.lean ====
section
/-! DEFINITION. VM.DEC and VM.ENC (spec/43_vout_mode.md). -/

namespace Sys2Proof.Machine

/-- The parser of R170: bit 7 relative, bits 6:5 selector, bits 4:0 parameter, sign-extended for FixedExponent,
zero-extended for VidCode, dropped for the other two. -/
def vmParse (x : Byte) : ModeSelection :=
  let sel : BitVec 2 := x.extractLsb' 5 2
  let p : BitVec 5 := x.extractLsb' 0 5
  { relative := x.getLsbD 7
    variant :=
      if sel = 0#2 then .fixedExponent (p.signExtend 8)
      else if sel = 1#2 then .vidCode (p.setWidth 8)
      else if sel = 2#2 then .directFormat
      else .ieeeHalfFormat }

/-- The re-encoder of R171: the low five bits of the parameter for FixedExponent and VidCode (D16), zero for the other
two. -/
def vmUnparse (x : ModeSelection) : Byte :=
  let rel := BitVec.ofBool x.relative
  match x.variant with
  | .fixedExponent e => rel ++ 0#2 ++ e.extractLsb' 0 5
  | .vidCode c => rel ++ 1#2 ++ c.extractLsb' 0 5
  | .directFormat => rel ++ 2#2 ++ 0#5
  | .ieeeHalfFormat => rel ++ 3#2 ++ 0#5

/-- VM.DEC (R170): the ModeSelection, packed as R69 says. -/
def execVmDec (raw : Byte) (s : State) : Outcome := respond (packMode (vmParse raw)) s

/-- VM.ENC (R171). -/
def execVmEnc (mode : ModeSelection) (s : State) : Outcome := respond (vmUnparse mode) s

end Sys2Proof.Machine
end

