-- ==== Sys2Proof/Machine/Dispatch.lean ====
section
/-! DEFINITION. The dispatch of an instruction to its meaning: one arm per constructor. -/

namespace Sys2Proof.Machine

def exec (i : Instr) (s : State) : Host.Outcome State Fault Refusal :=
  match i with
  | .lf16Dec raw => Sys2Proof.Machine.execLf16Dec raw s
  | .lf16Enc val => Sys2Proof.Machine.execLf16Enc val s
  | .lfx16Dec raw exp => Sys2Proof.Machine.execLfx16Dec raw exp s
  | .lfx16Enc val exp => Sys2Proof.Machine.execLfx16Enc val exp s
  | .dirDec coef raw => Sys2Proof.Machine.execDirDec coef raw s
  | .dirEnc coef val => Sys2Proof.Machine.execDirEnc coef val s
  | .dirCoef buf len => Sys2Proof.Machine.execDirCoef buf len s
  | .vmDec raw => Sys2Proof.Machine.execVmDec raw s
  | .vmEnc mode => Sys2Proof.Machine.execVmEnc mode s
  | .stDecByte raw => Sys2Proof.Machine.execStDecByte raw s
  | .stDecWord raw => Sys2Proof.Machine.execStDecWord raw s
  | .stDecVout raw => Sys2Proof.Machine.execStDecVout raw s
  | .stDecIout raw => Sys2Proof.Machine.execStDecIout raw s
  | .stDecInput raw => Sys2Proof.Machine.execStDecInput raw s
  | .stDecTemp raw => Sys2Proof.Machine.execStDecTemp raw s
  | .stDecCml raw => Sys2Proof.Machine.execStDecCml raw s
  | .stDecMfr raw => Sys2Proof.Machine.execStDecMfr raw s
  | .stDecFans12 raw => Sys2Proof.Machine.execStDecFans12 raw s
  | .stDecFans34 raw => Sys2Proof.Machine.execStDecFans34 raw s
  | .stBitsByte raw => Sys2Proof.Machine.execStBitsByte raw s
  | .stBitsWord raw => Sys2Proof.Machine.execStBitsWord raw s
  | .stBitsVout raw => Sys2Proof.Machine.execStBitsVout raw s
  | .stBitsIout raw => Sys2Proof.Machine.execStBitsIout raw s
  | .stBitsInput raw => Sys2Proof.Machine.execStBitsInput raw s
  | .stBitsTemp raw => Sys2Proof.Machine.execStBitsTemp raw s
  | .stBitsCml raw => Sys2Proof.Machine.execStBitsCml raw s
  | .stBitsMfr raw => Sys2Proof.Machine.execStBitsMfr raw s
  | .stBitsFans12 raw => Sys2Proof.Machine.execStBitsFans12 raw s
  | .stBitsFans34 raw => Sys2Proof.Machine.execStBitsFans34 raw s
  | .stTestByte raw flag => Sys2Proof.Machine.execStTestByte raw flag s
  | .stTestWord raw flag => Sys2Proof.Machine.execStTestWord raw flag s
  | .stTestVout raw flag => Sys2Proof.Machine.execStTestVout raw flag s
  | .stTestIout raw flag => Sys2Proof.Machine.execStTestIout raw flag s
  | .stTestInput raw flag => Sys2Proof.Machine.execStTestInput raw flag s
  | .stTestTemp raw flag => Sys2Proof.Machine.execStTestTemp raw flag s
  | .stTestCml raw flag => Sys2Proof.Machine.execStTestCml raw flag s
  | .stTestMfr raw flag => Sys2Proof.Machine.execStTestMfr raw flag s
  | .stTestFans12 raw flag => Sys2Proof.Machine.execStTestFans12 raw flag s
  | .stTestFans34 raw flag => Sys2Proof.Machine.execStTestFans34 raw flag s

end Sys2Proof.Machine
end

