-- ==== Sys2Proof/Machine/Step.lean ====
section
/-! DEFINITION. One step: one whole request (spec/10_state.md R20, spec/70_reset_and_hazards.md R274). -/

namespace Sys2Proof.Machine

/-- Serves the request on the input ports: `op` is decoded first (spec/60_exceptions.md R236), a reserved value is
rejected, and an instruction is executed. With no request in progress nothing happens. -/
def step (s : State) : Host.Outcome State Fault Refusal :=
  match fetch s with
  | none => idle s
  | some q =>
    match decode q with
    | .ok i => exec i s
    | .error e => rejectRequest e s

/-- The host puts the request with the bits `w` of a table row on the input ports, every other bit 0. -/
def State.withFetchWord (s : State) (nbits w : Nat) : State :=
  s.present (tableRequest nbits w)

end Sys2Proof.Machine
end

