-- ==== Sys2Proof/Safety.lean ====
section
/-! DEFINITION. The terms claims are stated in, written from the spec's tables and not from the meanings: which `op`
values are legal, which ports an operation reads, how wide its result is, which errors it may raise, and what a legal
response is. -/

namespace Sys2Proof.Safety

open Sys2Proof Sys2Proof.Machine

/-! ## Operation map (spec/30_encoding.md R61, R62) -/

/-- The 39 legal values of `op` (R61). -/
def legalOps : List Byte :=
  [0x00, 0x01, 0x10, 0x11, 0x20, 0x21, 0x22, 0x30, 0x31,
   0x40, 0x41, 0x42, 0x43, 0x44, 0x45, 0x46, 0x47, 0x48, 0x49,
   0x50, 0x51, 0x52, 0x53, 0x54, 0x55, 0x56, 0x57, 0x58, 0x59,
   0x60, 0x61, 0x62, 0x63, 0x64, 0x65, 0x66, 0x67, 0x68, 0x69]

/-- The reserved values of `op`, as the ranges R62 lists. -/
def reservedOp (op : Byte) : Prop :=
  let n := op.toNat
  (0x02 ≤ n ∧ n ≤ 0x0F) ∨ (0x12 ≤ n ∧ n ≤ 0x1F) ∨ (0x23 ≤ n ∧ n ≤ 0x2F) ∨ (0x32 ≤ n ∧ n ≤ 0x3F) ∨
    (0x4A ≤ n ∧ n ≤ 0x4F) ∨ (0x5A ≤ n ∧ n ≤ 0x5F) ∨ (0x6A ≤ n ∧ n ≤ 0x6F) ∨ (0x70 ≤ n ∧ n ≤ 0xFF)

/-! ## Ports (spec/10_state.md R27, spec/30_encoding.md R60) -/

/-- An input port an operation may read besides `op`; `rawLow` is `raw[7:0]`. -/
inductive Port where
  | raw | rawLow | val | exp | coef | buf | len | mode | flag
deriving DecidableEq, Repr

/-- What a port of a request shows. -/
def portValue : Port → Request → Nat
  | .raw, q => q.raw.toNat
  | .rawLow, q => q.raw.toNat % 256
  | .val, q => q.val.toNat
  | .exp, q => q.exp.toNat
  | .coef, q => q.coef.toNat
  | .buf, q => q.buf.toNat
  | .len, q => q.len.toNat
  | .mode, q => q.mode.toNat
  | .flag, q => q.flag.toNat

/-- The ports an `op` value reads: the formats of R60. -/
def portsRead (op : Byte) : List Port :=
  let n := op.toNat
  if n = 0x00 then [.raw]
  else if n = 0x01 then [.val]
  else if n = 0x10 then [.raw, .exp]
  else if n = 0x11 then [.val, .exp]
  else if n = 0x20 then [.coef, .raw]
  else if n = 0x21 then [.coef, .val]
  else if n = 0x22 then [.buf, .len]
  else if n = 0x30 then [.rawLow]
  else if n = 0x31 then [.mode]
  else if n = 0x41 ∨ n = 0x51 then [.raw]
  else if n = 0x61 then [.raw, .flag]
  else if (0x40 ≤ n ∧ n ≤ 0x49) ∨ (0x50 ≤ n ∧ n ≤ 0x59) then [.rawLow]
  else if 0x60 ≤ n ∧ n ≤ 0x69 then [.rawLow, .flag]
  else []

/-- Two requests for the same operation that show the same on every port it reads. -/
def sameOperands (q q' : Request) : Prop :=
  q.op = q'.op ∧ ∀ p ∈ portsRead q.op, portValue p q = portValue p q'

/-! ## Responses (spec/30_encoding.md R72, spec/60_exceptions.md R231 to R236, spec/49_numeric_laws.md R218) -/

/-- How many low bits of `rsp.res` the result of an operation takes (R72). -/
def resultWidth (op : Byte) : Nat :=
  let n := op.toNat
  if n = 0x00 ∨ n = 0x10 ∨ n = 0x20 then 32
  else if n = 0x01 ∨ n = 0x11 ∨ n = 0x21 then 16
  else if n = 0x22 then 40
  else if n = 0x30 then 11
  else if n = 0x31 then 8
  else if n = 0x41 ∨ n = 0x51 then 16
  else if 0x60 ≤ n ∧ n ≤ 0x69 then 1
  else 8

/-- What a decoder's binary32 result may be (R218): finite and not -0.0 for LF16.DEC and for DIR.DEC with m ≠ 0, the
same or +Infinity for LFX16.DEC, anything for DIR.DEC with m = 0 (R145). -/
def decoderLaw (q : Request) (f : F32) : Prop :=
  let n := q.op.toNat
  (n = 0x00 ∨ (n = 0x20 ∧ q.coef.toNat % 65536 ≠ 0) → isFinite f = true ∧ f ≠ 0x80000000#32) ∧
    (n = 0x10 → (isFinite f = true ∧ f ≠ 0x80000000#32) ∨ f = 0x7F800000#32)

/-- The status register whose index is `op[3:0]` in the groups 4, 5 and 6 (R63). -/
def statusRegOf (op : Byte) : StatusReg :=
  match op.toNat % 16 with
  | 0 => .byte
  | 1 => .word
  | 2 => .vout
  | 3 => .iout
  | 4 => .input
  | 5 => .temp
  | 6 => .cml
  | 7 => .mfr
  | 8 => .fans12
  | _ => .fans34

/-- ST.DEC and ST.BITS return no bit outside the register's mask (R190). -/
def vocabularyLaw (q : Request) (v : Res) : Prop :=
  0x40 ≤ q.op.toNat ∧ q.op.toNat ≤ 0x59 →
    ∀ k : Nat, v.getLsbD k = true → (statusMask (statusRegOf q.op)).getLsbD k = true

/-- A response R72 and R231 to R236 allow to a request: a result of the operation's width, or an error its operation
may raise. -/
def legalResponse (q : Request) : Response → Prop
  | .ok v =>
    q.op ∈ legalOps ∧ v.toNat < 2 ^ resultWidth q.op ∧ decoderLaw q (v.setWidth 32) ∧ vocabularyLaw q v
  | .error .encodingError => q.op = 0x01 ∨ q.op = 0x11 ∨ q.op = 0x21
  | .error .invalidResponseLength => q.op = 0x22 ∧ q.len.toNat < 5
  | .error .illegalOp => q.op ∉ legalOps

/-- The machine's invariant: a response on the output ports belongs to the request on the input ports and is legal for
it. -/
def Inv (s : State) : Prop :=
  ∀ r, s.rsp = some r → ∃ q, s.req = some q ∧ legalResponse q r

/-- A step that neither faults nor refuses. -/
def safeStep (s : State) : Prop := ∃ s', step s = .next s'

/-! ## Exact values of the spec's formulas, over Mathlib's powers -/

/-- `SCALE(e)` of R141. -/
def scaleOf (e : Int) : ℚ := if -8 ≤ e ∧ e ≤ 8 then (10 : ℚ) ^ e else 1

/-- `(y × SCALE(-R) - b) / m` (R142). -/
def dirDecodeValue (c : Coefficients) (raw : Half) : ℚ :=
  ((raw.toInt : ℚ) * scaleOf (-c.r.toInt) - (c.b.toInt : ℚ)) / (c.m.toInt : ℚ)

/-- `(m × v + b) × SCALE(R)` (R143). -/
def dirEncodeValue (c : Coefficients) (v : ℚ) : ℚ :=
  ((c.m.toInt : ℚ) * v + (c.b.toInt : ℚ)) * scaleOf c.r.toInt

/-- `Y × 2^N` of a LinearFloat16 word (R64). -/
def lf16Value (w : Half) : ℚ := ((w.extractLsb' 0 11).toInt : ℚ) * (2 : ℚ) ^ (w.extractLsb' 11 5).toInt

/-- Exponent N takes the mantissa of v into range (R102). -/
def lf16Valid (v : ℚ) (n : Int) : Prop :=
  (0 < v → v < 1023.5 * (2 : ℚ) ^ n) ∧ (v < 0 → -v < 1024.5 * (2 : ℚ) ^ n)

/-! ## The three status instructions of a register (R61) -/

/-- ST.DEC.r on the raw port; a byte register takes `raw[7:0]`. -/
def stDec : StatusReg → Half → Instr
  | .byte, x => .stDecByte (x.setWidth 8)
  | .word, x => .stDecWord x
  | .vout, x => .stDecVout (x.setWidth 8)
  | .iout, x => .stDecIout (x.setWidth 8)
  | .input, x => .stDecInput (x.setWidth 8)
  | .temp, x => .stDecTemp (x.setWidth 8)
  | .cml, x => .stDecCml (x.setWidth 8)
  | .mfr, x => .stDecMfr (x.setWidth 8)
  | .fans12, x => .stDecFans12 (x.setWidth 8)
  | .fans34, x => .stDecFans34 (x.setWidth 8)

/-- ST.BITS of register r on the raw port. -/
def stBits : StatusReg → Half → Instr
  | .byte, x => .stBitsByte (x.setWidth 8)
  | .word, x => .stBitsWord x
  | .vout, x => .stBitsVout (x.setWidth 8)
  | .iout, x => .stBitsIout (x.setWidth 8)
  | .input, x => .stBitsInput (x.setWidth 8)
  | .temp, x => .stBitsTemp (x.setWidth 8)
  | .cml, x => .stBitsCml (x.setWidth 8)
  | .mfr, x => .stBitsMfr (x.setWidth 8)
  | .fans12, x => .stBitsFans12 (x.setWidth 8)
  | .fans34, x => .stBitsFans34 (x.setWidth 8)

/-- ST.TEST of register r on the raw and flag ports. -/
def stTest : StatusReg → Half → BitVec 4 → Instr
  | .byte, x, f => .stTestByte (x.setWidth 8) f
  | .word, x, f => .stTestWord x f
  | .vout, x, f => .stTestVout (x.setWidth 8) f
  | .iout, x, f => .stTestIout (x.setWidth 8) f
  | .input, x, f => .stTestInput (x.setWidth 8) f
  | .temp, x, f => .stTestTemp (x.setWidth 8) f
  | .cml, x, f => .stTestCml (x.setWidth 8) f
  | .mfr, x, f => .stTestMfr (x.setWidth 8) f
  | .fans12, x, f => .stTestFans12 (x.setWidth 8) f
  | .fans34, x, f => .stTestFans34 (x.setWidth 8) f

end Sys2Proof.Safety
end

