-- ==== Sys2Proof/Certificates/Slice0/Obligations.lean ====
section
/-! DEFINITION. The statements for the provers. Each says in its docstring which words of the spec it formalises, and
where it rests on a decision or an inference that the spec marks as its own. `s` ranges over every state, reached or
not. The frame is in every conclusion of the form `.next { s with rsp := … }`: the request ports are unchanged and the
response ports hold exactly what is said; the machine has nothing else. -/

open Sys2Proof Sys2Proof.Machine Sys2Proof.Safety

/-! ## Encoding -/

/-- Every instruction, with every operand at every value, comes back from the 167 bits of its encoding, whose lowest
eight bits are its `op` byte (spec/30_encoding.md sections 1 and 2; numbering: log entry 4). -/
def Obligations.DecodingTheBitsOfAnEncodingGivesTheInstruction : Prop :=
  ∀ i : Instr, decode (requestOfBits (requestToBits (encode i))) = .ok i ∧
    (requestToBits (encode i)).extractLsb' 0 8 = opcode i

/-- The packing of the nine ports into 167 bits loses nothing in either direction (section 1 of spec/30_encoding.md;
the order of the ports in the number: log entry 4). -/
def Obligations.RequestRecordsAndTheirBitsCorrespond : Prop :=
  (∀ q : Request, requestOfBits (requestToBits q) = q) ∧
    ∀ x : BitVec 167, requestToBits (requestOfBits x) = x

/-- Decoding drops no bit of a port the operation reads: encoding the decoded instruction shows the same on all of
them. For VM.ENC the relative flag and the variant come back, and the parameter of the two variants that have one;
the other two ignore it (spec/30_encoding.md sections 1 and 2, decision D17). -/
def Obligations.DecodingKeepsEveryPortBitThatIsRead : Prop :=
  ∀ (q : Request) (i : Instr), decode q = .ok i →
    (q.op ≠ 0x31#8 → sameOperands q (encode i)) ∧
    (q.op = 0x31#8 →
      (encode i).op = q.op ∧ (encode i).mode.extractLsb' 8 3 = q.mode.extractLsb' 8 3 ∧
        (q.mode.getLsbD 9 = false → (encode i).mode = q.mode))

/-- Words written out from the encodings, one of each family, decode to the instruction they stand for
(spec/30_encoding.md sections 1 and 2; numbering of the bits: log entry 4). -/
def Obligations.SampleRequestWordsDecode : Prop :=
  decode (requestOfBits 0xF0D000#167) = .ok (.lf16Dec 0xF0D0#16) ∧
    decode (requestOfBits 0x42500000000001#167) = .ok (.lf16Enc 0x42500000#32) ∧
    decode (requestOfBits 0xF40000000004CD10#167) = .ok (.lfx16Dec 0x04CD#16 0xF4#8) ∧
    decode (requestOfBits 0x5000A0000000000002320#167) = .ok (.dirDec { m := 10#16, b := 5#16, r := 0#8 } 0x0023#16) ∧
    decode (requestOfBits 0x501FF9C000200000000000000000000000022#167) = .ok (.dirCoef 0x01FF9C0002#40 5#8) ∧
    decode (requestOfBits 0x1330#167) = .ok (.vmDec 0x13#8) ∧
    decode (requestOfBits 0xF300000000000000000000000000000000000031#167) = .ok (.vmEnc { relative := false, variant := .fixedExponent 0xF3#8 }) ∧
    decode (requestOfBits 0x12C340#167) = .ok (.stDecByte 0xC3#8) ∧
    decode (requestOfBits 0xA5C351#167) = .ok (.stBitsWord 0xA5C3#16) ∧
    decode (requestOfBits 0x38000000000000000000000000000000000000F065#167) = .ok (.stTestTemp 0xF0#8 7#4) ∧
    decode (requestOfBits 0x4A#167) = .error (.illegalOp 0x4A#8)

/-- A request raises IllegalOp exactly when its `op` is one of the reserved values listed; every other `op` value is
executed (spec/30_encoding.md section 1, spec/60_exceptions.md section 1; the numbering and the error are the spec's
own decisions D2 and D7). -/
def Obligations.ReservedOpsAndNoOthersRaiseIllegalOp : Prop :=
  ∀ (s : State) (q : Request), s.req = some q →
    (reservedOp q.op → step s = .next { s with rsp := some (.error .illegalOp) }) ∧
    (¬ reservedOp q.op → ∃ i : Instr, decode q = .ok i ∧ step s = exec i s ∧
      step s ≠ .next { s with rsp := some (.error .illegalOp) })

/-! ## The step -/

/-- When the request on the input ports decodes to an instruction, the step is the execution of that instruction at
that very state; the machine has no program counter to move past it (spec/10_state.md sections 1 and 2). -/
def Obligations.StepRunsTheDecodedInstruction : Prop :=
  ∀ (s : State) (q : Request) (i : Instr), s.req = some q → decode q = .ok i → step s = exec i s

/-- MODEL'S CHOICE (log entry 3): with no request in progress the step leaves the machine as it is. -/
def Obligations.WithoutARequestNothingChanges : Prop :=
  ∀ s : State, s.req = none → step s = .next s

/-- Every response on the output ports belongs to the request on the input ports and is one R72 and R231 to R236 allow
to it (its width, its error kinds, the numeric law of R218 for decoders, the vocabulary of R190 for status values);
every step keeps this. The laws are the spec's, some by its own decisions (D2, D4, D5, D9, D11) and inferences (R236);
that the request stays on the ports beside its response is the model's (log entry 2). -/
def Obligations.StepKeepsEveryResponseLegalForItsRequest : Prop :=
  ∀ s s' : State, Inv s → step s = .next s' → Inv s'

/-- After reset no request is in progress (spec/70_reset_and_hazards.md section 1, decision D19) and the invariant
holds. MODEL'S CHOICE (log entry 27): the output ports show no response after reset. -/
def Obligations.ResetHasNoRequestAndMeetsTheInvariant : Prop :=
  State.reset.req = none ∧ State.reset.rsp = none ∧ Inv State.reset

/-- Every request is answered in one step, whatever stood on the output ports before; no step with a request faults or
refuses (spec/70_reset_and_hazards.md section 4, decision D20). The answer is a legal response: its width by R72, its
error kinds by R231 to R236, a decoder's value by the law of R218, a status value by R190; some of that by the spec's
decisions D2, D4, D5, D7 (log entry 11), D9 (log entry 17) and D11 (log entry 18). MODEL'S CHOICE (log entry 2): the
request stays on the input ports. -/
def Obligations.EveryRequestIsAnsweredInOneStep : Prop :=
  ∀ (s : State) (q : Request), s.req = some q →
    ∃ r : Response, step s = .next { s with rsp := some r } ∧ legalResponse q r

/-- The response depends on the ports the operation reads and on nothing else: two states whatever, whose requests
agree on those ports, give the same response (spec/10_state.md sections 1 and 3, decisions D1 and D24; for DIR.DEC with
m = 0, log entry 7). MODEL'S CHOICE (log entry 2): each request stays on its input ports. -/
def Obligations.ResponseDependsOnTheReadPortsOnly : Prop :=
  ∀ (s t : State) (q q' : Request), s.req = some q → t.req = some q' → sameOperands q q' →
    ∃ r : Response, step s = .next { s with rsp := some r } ∧ step t = .next { t with rsp := some r }

/-- No side effect, and idempotence (spec/20_memory.md section 3): the same request gives the same response again, and
no request changes what any later request is answered. MODEL'S CHOICE: a step leaves the request on the input ports, so
that the next step answers it again (log entry 2); without a request it changes nothing (log entry 3); the open result
of DIR.DEC with m = 0 is a function of the operands (log entry 7). -/
def Obligations.OperationsAreIdempotentAndLeaveNoTrace : Prop :=
  ∀ s s' : State, step s = .next s' →
    s'.req = s.req ∧ step s' = .next s' ∧
    ∀ q : Request, ∃ r : Response,
      step (s.present q) = .next { s.present q with rsp := some r } ∧
      step (s'.present q) = .next { s'.present q with rsp := some r }

/-- The operations R237 calls total return a result with status OK at every state and every operand: all but LF16.ENC,
LFX16.ENC, DIR.ENC and DIR.COEF (R237 is the spec's own inference; DIR.DEC with m = 0 by decision D10). -/
def Obligations.TotalOperationsAlwaysReturnAResult : Prop :=
  ∀ (i : Instr) (s : State),
    (∀ val, i ≠ .lf16Enc val) → (∀ val exp, i ≠ .lfx16Enc val exp) → (∀ coef val, i ≠ .dirEnc coef val) →
    (∀ buf len, i ≠ .dirCoef buf len) →
    ∃ v : Res, exec i s = .next { s with rsp := some (.ok v) }

/-! ## Errors -/

/-- EncodingError is raised by the three encoders and by nothing else, in exactly the cases of R232's table. -/
def Obligations.EncodingErrorIsRaisedExactlyInTheListedCases : Prop :=
  (∀ (i : Instr) (s : State),
    exec i s = .next { s with rsp := some (.error .encodingError) } ↔
      (∃ val, i = .lf16Enc val ∧
        (isNaN val = true ∨ isInf val = true ∨ 33538048 ≤ real val ∨ real val ≤ -33570816)) ∨
      (∃ val exp, i = .lfx16Enc val exp ∧
        (isNaN val = true ∨ isInf val = true ∨ real val < 0 ∨ 65535.5 * (2 : ℚ) ^ exp.toInt ≤ real val)) ∨
      (∃ coef val, i = .dirEnc coef val ∧
        (isNaN val = true ∨ isInf val = true ∨ rhaz (dirEncodeValue coef (real val)) < -32768 ∨
          32767 < rhaz (dirEncodeValue coef (real val))))) ∧
  ∀ (s : State) (q : Request), s.req = some q →
    step s = .next { s with rsp := some (.error .encodingError) } →
    ∃ i : Instr, decode q = .ok i ∧ exec i s = .next { s with rsp := some (.error .encodingError) }

/-- InvalidResponseLength is raised by DIR.COEF and by nothing else, when `req.len` is below 5, whatever the buffer
lanes hold (R233). -/
def Obligations.InvalidResponseLengthIsRaisedExactlyByShortBuffers : Prop :=
  (∀ (i : Instr) (s : State),
    exec i s = .next { s with rsp := some (.error .invalidResponseLength) } ↔
      ∃ buf len, i = .dirCoef buf len ∧ len.toNat < 5) ∧
  ∀ (s : State) (q : Request), s.req = some q →
    (step s = .next { s with rsp := some (.error .invalidResponseLength) } ↔ q.op = 0x22#8 ∧ q.len.toNat < 5)

/-! ## Rounding -/

/-- `rhaz` returns a nearest integer, of a tie the one farther from zero, and is odd (spec/00_scope.md section 5,
spec/49_numeric_laws.md section 1; exact addition of one half: decision D4). -/
def Obligations.EncoderRoundingIsHalfAwayFromZero : Prop :=
  ∀ q : ℚ, |(rhaz q : ℚ) - q| ≤ 1 / 2 ∧ (|(rhaz q : ℚ) - q| = 1 / 2 → |q| < |(rhaz q : ℚ)|) ∧
    rhaz (-q) = -rhaz q

/-- Below the overflow bound `rne32` returns a finite binary32 at least as near as every other, and of two equally near
ones the one with the even fraction (spec/00_scope.md section 5, decision D4, from general knowledge G5). -/
def Obligations.DecoderRoundingIsToNearestTiesToEven : Prop :=
  ∀ q : ℚ, |q| < (2 : ℚ) ^ (128 : ℕ) - (2 : ℚ) ^ (103 : ℕ) →
    isFinite (rne32 q) = true ∧
    ∀ g : F32, isFinite g = true →
      |real (rne32 q) - q| ≤ |real g - q| ∧
      (|real (rne32 q) - q| = |real g - q| → real g ≠ real (rne32 q) → (rne32 q).getLsbD 0 = false)

/-- From the overflow bound on `rne32` returns the infinity of the sign of its argument (spec/00_scope.md section 5,
decision D4, from general knowledge G5). -/
def Obligations.DecoderRoundingOverflowsToInfinity : Prop :=
  ∀ q : ℚ, (2 : ℚ) ^ (128 : ℕ) - (2 : ℚ) ^ (103 : ℕ) ≤ |q| →
    rne32 q = if 0 < q then 0x7F800000#32 else 0xFF800000#32

/-- A rational that is a binary32 value comes back unrounded, as every finite pattern but -0.0; zero is +0.0
(spec/00_scope.md section 5, decision D11). -/
def Obligations.RoundingARepresentableValueIsExact : Prop :=
  rne32 0 = 0x00000000#32 ∧
    ∀ f : F32, isFinite f = true → f ≠ 0x80000000#32 → rne32 (real f) = f

/-! ## LinearFloat16 -/

/-- LF16.DEC returns exactly Y × 2^N, at every word and every state; a zero mantissa gives +0.0
(spec/40_linearfloat16.md section 1, decision D11). -/
def Obligations.Lf16DecodeReturnsTheExactValue : Prop :=
  ∀ (raw : Half) (s : State), ∃ f : F32,
    exec (.lf16Dec raw) s = .next { s with rsp := some (.ok (f.setWidth 40)) } ∧
    isFinite f = true ∧ real f = lf16Value raw ∧ (raw.extractLsb' 0 11 = 0#11 → f = 0x00000000#32)

/-- The search of LF16.ENC returns the least exponent that takes the mantissa into range, with the value rounded once
there (spec/40_linearfloat16.md sections 2 and 3: the search is the source's, the closed form the spec's own inference;
exact arithmetic: decision D4). That it is the least of several exponents with the same error rests on the tie rule:
decision D27, log entry 24. -/
def Obligations.Lf16EncodeFindsTheLeastValidExponent : Prop :=
  ∀ (val : F32) (s : State) (n : Int), isFinite val = true → real val ≠ 0 → -16 ≤ n → n ≤ 15 →
    lf16Valid (real val) n → (∀ k : Int, -16 ≤ k → k < n → ¬ lf16Valid (real val) k) →
    exec (.lf16Enc val) s = .next { s with rsp := some (.ok
      ((BitVec.ofInt 5 n ++ BitVec.ofInt 11 (rhaz (real val / (2 : ℚ) ^ n)) : BitVec 16).setWidth 40)) }

/-- Inside the encodable domain LF16.ENC returns a word whose reconstruction error is least among all pairs of an
exponent in -16..15 and a mantissa in -1024..1023, and whose exponent is the first, ascending, at which the rounded
mantissa attains that error (spec/40_linearfloat16.md section 2; the domain is the spec's own inference; tie rule:
decision D27, log entry 24). -/
def Obligations.Lf16EncodeMinimisesTheReconstructionError : Prop :=
  ∀ (val : F32) (s : State), isFinite val = true → real val ≠ 0 → -33570816 < real val → real val < 33538048 →
    ∃ w : Half, exec (.lf16Enc val) s = .next { s with rsp := some (.ok (w.setWidth 40)) } ∧
      ∀ n y : Int, -16 ≤ n → n ≤ 15 → -1024 ≤ y → y ≤ 1023 →
        |real val - lf16Value w| ≤ |real val - (y : ℚ) * (2 : ℚ) ^ n| ∧
        (y = rhaz (real val / (2 : ℚ) ^ n) → |real val - lf16Value w| = |real val - (y : ℚ) * (2 : ℚ) ^ n| →
          (w.extractLsb' 11 5).toInt ≤ n)

/-- Both zeros encode as the all-zero word, and a nonzero value below 2^-17 as the word 0x8000, which decodes to zero,
without an error (spec/40_linearfloat16.md section 2 (a) and (b), decision D8, conflict C4). -/
def Obligations.Lf16EncodeOfZeroAndOfTinyValues : Prop :=
  ∀ (val : F32) (s : State),
    (val = 0x00000000#32 ∨ val = 0x80000000#32 →
      exec (.lf16Enc val) s = .next { s with rsp := some (.ok 0x0000#40) }) ∧
    (isFinite val = true → real val ≠ 0 → |real val| < (2 : ℚ) ^ (-17 : ℤ) →
      exec (.lf16Enc val) s = .next { s with rsp := some (.ok 0x8000#40) } ∧
      exec (.lf16Dec 0x8000#16) s = .next { s with rsp := some (.ok 0x00000000#40) })

/-- Decoding, encoding and decoding again returns the first decoded value, at every word; the word itself need not come
back (spec/40_linearfloat16.md section 3 (d), the spec's own inference). -/
def Obligations.Lf16DecodedValuesSurviveReencoding : Prop :=
  ∀ (w : Half) (s : State), ∃ (f : F32) (w' : Half),
    exec (.lf16Dec w) s = .next { s with rsp := some (.ok (f.setWidth 40)) } ∧
    exec (.lf16Enc f) s = .next { s with rsp := some (.ok (w'.setWidth 40)) } ∧
    exec (.lf16Dec w') s = .next { s with rsp := some (.ok (f.setWidth 40)) }

/-- Encoding and decoding a value of the domain moves it by at most half a unit of every valid exponent, so of the
least one (spec/40_linearfloat16.md section 3 (c), the spec's own inference). -/
def Obligations.Lf16RoundTripErrorIsAtMostHalfAUnit : Prop :=
  ∀ (val : F32) (s : State) (n : Int), isFinite val = true → -33570816 < real val → real val < 33538048 →
    -16 ≤ n → n ≤ 15 → lf16Valid (real val) n →
    ∃ (w : Half) (f : F32),
      exec (.lf16Enc val) s = .next { s with rsp := some (.ok (w.setWidth 40)) } ∧
      exec (.lf16Dec w) s = .next { s with rsp := some (.ok (f.setWidth 40)) } ∧
      isFinite f = true ∧ |real f - real val| ≤ (2 : ℚ) ^ (n - 1)

/-! ## LinearFixed16 -/

/-- LFX16.DEC returns exactly V × 2^N while that is below 2^128, subnormals included, and +Infinity from there on
(spec/41_linearfixed16.md section 1; overflow: decision D9, sign of zero: decision D11). -/
def Obligations.Lfx16DecodeReturnsTheExactValueOrInfinity : Prop :=
  ∀ (raw : Half) (exp : Byte) (s : State), ∃ f : F32,
    exec (.lfx16Dec raw exp) s = .next { s with rsp := some (.ok (f.setWidth 40)) } ∧
    ((raw.toNat : ℚ) * (2 : ℚ) ^ exp.toInt < (2 : ℚ) ^ (128 : ℕ) →
      isFinite f = true ∧ real f = (raw.toNat : ℚ) * (2 : ℚ) ^ exp.toInt ∧ f.getLsbD 31 = false) ∧
    ((2 : ℚ) ^ (128 : ℕ) ≤ (raw.toNat : ℚ) * (2 : ℚ) ^ exp.toInt → f = 0x7F800000#32)

/-- Inside its domain 0 ≤ v < 65535.5 × 2^N, LFX16.ENC returns the word V that is v / 2^N rounded half up, and V × 2^N
is within half a unit of v (spec/41_linearfixed16.md sections 2 and 3, decisions D4 and D8). -/
def Obligations.Lfx16EncodeRoundsToTheNearestWord : Prop :=
  ∀ (val : F32) (exp : Byte) (s : State), isFinite val = true → 0 ≤ real val →
    real val < 65535.5 * (2 : ℚ) ^ exp.toInt →
    ∃ w : Half, exec (.lfx16Enc val exp) s = .next { s with rsp := some (.ok (w.setWidth 40)) } ∧
      (w.toNat : ℚ) ≤ real val / (2 : ℚ) ^ exp.toInt + 1 / 2 ∧
      real val / (2 : ℚ) ^ exp.toInt + 1 / 2 < (w.toNat : ℚ) + 1 ∧
      |real val - (w.toNat : ℚ) * (2 : ℚ) ^ exp.toInt| ≤ (2 : ℚ) ^ (exp.toInt - 1)

/-- Encoding a decoded word at the same exponent returns the word, wherever decoding does not overflow
(spec/41_linearfixed16.md section 3, the spec's own inference). -/
def Obligations.Lfx16WordsRoundTrip : Prop :=
  ∀ (raw : Half) (exp : Byte) (s : State), (raw.toNat : ℚ) * (2 : ℚ) ^ exp.toInt < (2 : ℚ) ^ (128 : ℕ) →
    ∃ f : F32, exec (.lfx16Dec raw exp) s = .next { s with rsp := some (.ok (f.setWidth 40)) } ∧
      exec (.lfx16Enc f exp) s = .next { s with rsp := some (.ok (raw.setWidth 40)) }

/-- With the exponent of a parsed VOUT_MODE byte of selector 00, copied from `param` to `req.exp`, LFX16.DEC never
overflows: the result is exactly V × 2^N with N in -16..15, and is 0 or lies in 2^-16 .. 65535 × 2^15
(spec/41_linearfixed16.md sections 1 (d) and 3). -/
def Obligations.ParsedExponentsNeverOverflowTheScaler : Prop :=
  ∀ (x : Byte) (raw : Half) (s : State), x.extractLsb' 5 2 = 0#2 →
    ∃ (m : BitVec 11) (f : F32),
      exec (.vmDec x) s = .next { s with rsp := some (.ok (m.setWidth 40)) } ∧
      exec (.lfx16Dec raw (m.extractLsb' 0 8)) s = .next { s with rsp := some (.ok (f.setWidth 40)) } ∧
      -16 ≤ (x.extractLsb' 0 5).toInt ∧ (x.extractLsb' 0 5).toInt ≤ 15 ∧
      isFinite f = true ∧ real f = (raw.toNat : ℚ) * (2 : ℚ) ^ (x.extractLsb' 0 5).toInt ∧
      (real f = 0 ∨ ((2 : ℚ) ^ (-16 : ℤ) ≤ real f ∧ real f ≤ 65535 * 2 ^ (15 : ℕ)))

/-! ## DirectLinear -/

/-- With m ≠ 0 DIR.DEC returns the binary32 nearest (y × SCALE(-R) - b) / m, a tie going to the even fraction, and +0.0
when that value is zero (spec/42_directlinear.md section 2, conflict C1; one exact rounding: decision D4, sign of zero:
decision D11). -/
def Obligations.DirDecodeReturnsTheCorrectlyRoundedQuotient : Prop :=
  ∀ (coef : Coefficients) (raw : Half) (s : State), coef.m ≠ 0#16 →
    ∃ f : F32, exec (.dirDec coef raw) s = .next { s with rsp := some (.ok (f.setWidth 40)) } ∧
      isFinite f = true ∧ (dirDecodeValue coef raw = 0 → f = 0x00000000#32) ∧
      ∀ g : F32, isFinite g = true →
        |real f - dirDecodeValue coef raw| ≤ |real g - dirDecodeValue coef raw| ∧
        (|real f - dirDecodeValue coef raw| = |real g - dirDecodeValue coef raw| → real g ≠ real f →
          f.getLsbD 0 = false)

/-- With m ≠ 0 the result of DIR.DEC is zero or a normal number between 3 × 10^-13 and 3.3 × 10^12 in magnitude
(spec/42_directlinear.md section 2 (b), the spec's own inference). -/
def Obligations.DirDecodeResultsAreZeroOrOfModerateSize : Prop :=
  ∀ (coef : Coefficients) (raw : Half) (s : State), coef.m ≠ 0#16 →
    ∃ f : F32, exec (.dirDec coef raw) s = .next { s with rsp := some (.ok (f.setWidth 40)) } ∧
      |real f| < 33 * 10 ^ (11 : ℕ) ∧ (f = 0x00000000#32 ∨ 3 / 10 ^ (13 : ℕ) < |real f|)

/-- With m = 0 DIR.DEC returns status OK with some 32 bits and zero above; which bits is left open, and they depend on
the operands alone. MODEL'S CHOICE that it is a function of the operands (log entry 7); the rest is
spec/42_directlinear.md section 5, decision D10. -/
def Obligations.DirDecodeWithZeroSlopeReturnsAnOpenValue : Prop :=
  ∀ (coef : Coefficients) (raw : Half), coef.m = 0#16 →
    ∃ f : F32, ∀ s : State, exec (.dirDec coef raw) s = .next { s with rsp := some (.ok (f.setWidth 40)) }

/-- R outside -8..8 degrades to a scale of 1.0 and is no error of any kind (R147): DIR.COEF returns it as it is, DIR.ENC
answers what it answers for R = 0, DIR.DEC returns a result with status OK, and with m ≠ 0 the result for R = 0. -/
def Obligations.OutOfTableExponentsActAsScaleOne : Prop :=
  ∀ (coef : Coefficients) (s : State), coef.r.toInt < -8 ∨ 8 < coef.r.toInt →
    (∀ len : Byte, 5 ≤ len.toNat →
      exec (.dirCoef (packCoef coef) len) s = .next { s with rsp := some (.ok (packCoef coef)) }) ∧
    (∀ val : F32, exec (.dirEnc coef val) s = exec (.dirEnc { coef with r := 0#8 } val) s) ∧
    ∀ raw : Half, ∃ v : Res, exec (.dirDec coef raw) s = .next { s with rsp := some (.ok v) } ∧
      (coef.m ≠ 0#16 → exec (.dirDec { coef with r := 0#8 } raw) s = .next { s with rsp := some (.ok v) })

/-- Where the exact value (m × v + b) × SCALE(R) rounds into the i16 range, DIR.ENC returns that i16: the nearest
integer, of a tie the one farther from zero. m = 0 is included (spec/42_directlinear.md section 3, conflict C2;
decisions D4, D12, D29). -/
def Obligations.DirEncodeRoundsTheScaledValueLast : Prop :=
  ∀ (coef : Coefficients) (val : F32) (s : State), isFinite val = true →
    -32768.5 < dirEncodeValue coef (real val) → dirEncodeValue coef (real val) < 32767.5 →
    ∃ w : Half, exec (.dirEnc coef val) s = .next { s with rsp := some (.ok (w.setWidth 40)) } ∧
      |(w.toInt : ℚ) - dirEncodeValue coef (real val)| ≤ 1 / 2 ∧
      (|(w.toInt : ℚ) - dirEncodeValue coef (real val)| = 1 / 2 →
        |dirEncodeValue coef (real val)| < |(w.toInt : ℚ)|)

/-- As real functions the exact values of the two directions are inverse to each other when R is in the table and
m ≠ 0 (spec/42_directlinear.md section 5, the spec's own inference). -/
def Obligations.DirDirectionsAreInverseBeforeRounding : Prop :=
  ∀ (coef : Coefficients) (raw : Half) (x : ℚ), coef.m ≠ 0#16 → -8 ≤ coef.r.toInt → coef.r.toInt ≤ 8 →
    (dirDecodeExact coef raw = x ↔ dirEncodeExact coef x = (raw.toInt : ℚ))

/-- Five bytes b0..b4 and a length of at least five give the record m = b0 + 256 b1, b = b2 + 256 b3, R = b4: the
coefficients wire layout is little-endian (R43). -/
def Obligations.CoefficientsAreReadLittleEndian : Prop :=
  ∀ (b0 b1 b2 b3 b4 len : Byte) (s : State), 5 ≤ len.toNat →
    ∃ c : Coefficients,
      exec (.dirCoef (b4 ++ b3 ++ b2 ++ b1 ++ b0) len) s = .next { s with rsp := some (.ok (packCoef c)) } ∧
      c.m.toNat = b0.toNat + 256 * b1.toNat ∧ c.b.toNat = b2.toNat + 256 * b3.toNat ∧ c.r.toNat = b4.toNat ∧
      unpackCoef (packCoef c) = c

/-- The record DIR.COEF returns equals the buffer bit for bit, for every length from 5 on (spec/42_directlinear.md
section 4 (a) and (b), decision D18 and the spec's own inference). -/
def Obligations.ParsedCoefficientsEqualTheBuffer : Prop :=
  ∀ (buf : BitVec 40) (len : Byte) (s : State), 5 ≤ len.toNat →
    exec (.dirCoef buf len) s = .next { s with rsp := some (.ok buf) }

/-- `MemRead` for n = 1 and n = 2 within the five bytes is byte(a), and {byte(a + 1), byte(a)}, byte a the low one
(R42). -/
def Obligations.BufferReadsAreLittleEndianBytes : Prop :=
  ∀ (buf : BitVec 40) (a : Nat),
    (a + 1 ≤ 5 → (memRead1 buf a).toNat = buf.toNat / 2 ^ (8 * a) % 256) ∧
    (a + 2 ≤ 5 → (memRead2 buf a).toNat =
      buf.toNat / 2 ^ (8 * a) % 256 + 256 * (buf.toNat / 2 ^ (8 * (a + 1)) % 256))

/-! ## VOUT_MODE -/

/-- VM.DEC parses every byte: the relative flag is bit 7, the variant bits 6:5; the parameter is bits 4:0
sign-extended for selector 00, zero-extended for 01, and 0 for 10 and 11 (spec/43_vout_mode.md section 1; the packing
of the record: decision D17). -/
def Obligations.VoutModeBytesParseFieldByField : Prop :=
  ∀ (x : Byte) (s : State), ∃ m : BitVec 11,
    exec (.vmDec x) s = .next { s with rsp := some (.ok (m.setWidth 40)) } ∧
    m.getLsbD 10 = x.getLsbD 7 ∧ m.extractLsb' 8 2 = x.extractLsb' 5 2 ∧
    (x.extractLsb' 5 2 = 0#2 → (m.extractLsb' 0 8).toInt = (x.extractLsb' 0 5).toInt) ∧
    (x.extractLsb' 5 2 = 1#2 → (m.extractLsb' 0 8).toNat = (x.extractLsb' 0 5).toNat) ∧
    (x.getLsbD 6 = true → m.extractLsb' 0 8 = 0#8)

/-- VM.ENC encodes every one of the 2048 mode records: bit 7 is the flag, bits 6:5 the variant number, bits 4:0 the low
five bits of the parameter for the first two variants and zero for the other two (spec/43_vout_mode.md section 2;
parameters wider than five bits: decision D16). -/
def Obligations.ModeRecordsEncodeFieldByField : Prop :=
  ∀ (s : State) (q : Request), s.req = some q → q.op = 0x31#8 →
    ∃ b : Byte, step s = .next { s with rsp := some (.ok (b.setWidth 40)) } ∧
      b.getLsbD 7 = q.mode.getLsbD 10 ∧ b.extractLsb' 5 2 = q.mode.extractLsb' 8 2 ∧
      (q.mode.getLsbD 9 = false → b.extractLsb' 0 5 = q.mode.extractLsb' 0 5) ∧
      (q.mode.getLsbD 9 = true → b.extractLsb' 0 5 = 0#5)

/-- Byte to record to byte (R172): a byte with selector 00 or 01 comes back exactly; one with selector 10 or 11 comes
back with bits 4:0 cleared, and so equals itself only when they are zero. -/
def Obligations.VoutModeRoundTripIsExactOrDropsReservedBits : Prop :=
  ∀ (x : Byte) (s : State), ∃ m : BitVec 11,
    exec (.vmDec x) s = .next { s with rsp := some (.ok (m.setWidth 40)) } ∧
    exec (.vmEnc (unpackMode m)) s =
      .next { s with rsp := some (.ok ((if x.getLsbD 6 then x &&& 0xE0#8 else x).setWidth 40)) } ∧
    (x.getLsbD 6 = true → (x &&& 0xE0#8 = x ↔ x.extractLsb' 0 5 = 0#5))

/-- Every record VM.DEC can produce survives VM.ENC and VM.DEC (spec/43_vout_mode.md section 2 (c)). -/
def Obligations.ProducibleModeRecordsSurviveReencoding : Prop :=
  ∀ (x : ModeSelection) (s : State), x.wellFormed = true →
    ∃ b : Byte, exec (.vmEnc x) s = .next { s with rsp := some (.ok (b.setWidth 40)) } ∧
      exec (.vmDec b) s = .next { s with rsp := some (.ok ((packMode x).setWidth 40)) }

/-- The relative flag is carried through VM.DEC (bit 7 of the byte to bit 10 of the record) and VM.ENC (the record's flag
to bit 7 of the byte) and changes nothing else: another flag changes that one bit of the result. No operation but VM.ENC
has a port for it (R31; the place of the flag in the packed record: the spec's decision D17). -/
def Obligations.RelativeFlagIsCarriedAndChangesNothingElse : Prop :=
  (∀ (x : Byte) (s : State), ∃ m : BitVec 11,
    exec (.vmDec x) s = .next { s with rsp := some (.ok (m.setWidth 40)) } ∧ m.getLsbD 10 = x.getLsbD 7 ∧
    exec (.vmDec (x ^^^ 0x80#8)) s = .next { s with rsp := some (.ok ((m ^^^ 0x400#11).setWidth 40)) }) ∧
  (∀ (x : ModeSelection) (s : State), ∃ b : Byte,
    exec (.vmEnc x) s = .next { s with rsp := some (.ok (b.setWidth 40)) } ∧ b.getLsbD 7 = x.relative ∧
    exec (.vmEnc { x with relative := !x.relative }) s =
      .next { s with rsp := some (.ok ((b ^^^ 0x80#8).setWidth 40)) }) ∧
  ∀ (s : State) (q : Request) (m : BitVec 11), q.op ≠ 0x31#8 → ∃ r : Response,
    step (s.present q) = .next { s.present q with rsp := some r } ∧
    step (s.present { q with mode := m }) = .next { s.present { q with mode := m } with rsp := some r }

/-! ## Status registers -/

/-- The five byte registers whose every bit is used decode to the raw byte itself, and `raw[15:8]` does not matter
(R193, R195, R196, R197, R200): the instruction of `op` 0x40, 0x42, 0x43, 0x44 or 0x47 is read from `raw[7:0]` and
returns it. -/
def Obligations.FullByteRegistersDecodeToTheRawByte : Prop :=
  ∀ (s : State) (q : Request) (x : Byte), q.raw.extractLsb' 0 8 = x →
    (q.op = 0x40#8 → decode q = .ok (.stDecByte x) ∧
      exec (.stDecByte x) s = .next { s with rsp := some (.ok (x.setWidth 40)) }) ∧
    (q.op = 0x42#8 → decode q = .ok (.stDecVout x) ∧
      exec (.stDecVout x) s = .next { s with rsp := some (.ok (x.setWidth 40)) }) ∧
    (q.op = 0x43#8 → decode q = .ok (.stDecIout x) ∧
      exec (.stDecIout x) s = .next { s with rsp := some (.ok (x.setWidth 40)) }) ∧
    (q.op = 0x44#8 → decode q = .ok (.stDecInput x) ∧
      exec (.stDecInput x) s = .next { s with rsp := some (.ok (x.setWidth 40)) }) ∧
    (q.op = 0x47#8 → decode q = .ok (.stDecMfr x) ∧
      exec (.stDecMfr x) s = .next { s with rsp := some (.ok (x.setWidth 40)) })

/-- ST.DEC.WORD, the only 16-bit register, returns all 16 bits of the raw word, and its low byte is what ST.DEC.BYTE
returns for the low byte of the word (R194). -/
def Obligations.WordRegisterDecodesToTheRawWord : Prop :=
  (∀ r : StatusReg, statusWidth r = 16 ↔ r = .word) ∧
  (∀ q : Request, q.op = 0x41#8 → decode q = .ok (.stDecWord q.raw)) ∧
  ∀ (x : Half) (s : State),
    exec (.stDecWord x) s = .next { s with rsp := some (.ok (x.setWidth 40)) } ∧
    exec (.stDecByte (x.extractLsb' 0 8)) s =
      .next { s with rsp := some (.ok (((x.setWidth 40 : Res).extractLsb' 0 8).setWidth 40)) }

/-- Bit i of the result of each of the ten decoders is `raw[i] AND MASK[r][i]`, for whatever the open masks are;
a bit outside the vocabulary is dropped and is no error (R207, R75). -/
def Obligations.StatusDecodersKeepExactlyTheVocabularyBits : Prop :=
  ∀ (r : StatusReg) (raw : Half) (s : State), ∃ v : Half,
    exec (stDec r raw) s = .next { s with rsp := some (.ok (v.setWidth 40)) } ∧
    ∀ k : Nat, k < 16 → v.getLsbD k = (raw.getLsbD k && (statusMask r).getLsbD k)

/-- ST.BITS returns the vocabulary bits of its input, dropping any other, for each of the ten registers
(spec/44_status.md section 3; re-masking: decision D15). -/
def Obligations.StatusBitsReturnsExactlyTheVocabularyBits : Prop :=
  ∀ (r : StatusReg) (raw : Half) (s : State), ∃ v : Half,
    exec (stBits r raw) s = .next { s with rsp := some (.ok (v.setWidth 40)) } ∧
    ∀ k : Nat, k < 16 → v.getLsbD k = (raw.getLsbD k && (statusMask r).getLsbD k)

/-- ST.TEST returns 1 when the flag's position is in the vocabulary and set in the value, and 0 otherwise, for each of
the ten registers and each of the 16 positions (spec/44_status.md section 4; positions outside the vocabulary:
decision D15). -/
def Obligations.StatusTestReportsOneVocabularyBit : Prop :=
  ∀ (r : StatusReg) (raw : Half) (flag : BitVec 4) (s : State),
    exec (stTest r raw flag) s = .next { s with rsp := some (.ok
      (if raw.getLsbD flag.toNat = true ∧ (statusMask r).getLsbD flag.toNat = true then 1#40 else 0#40)) }

/-- For every register: ST.BITS of a decoded value returns that value, decoding it again returns it too, and ST.TEST
of it reports the raw bit when the position is in the vocabulary and 0 when it is not (spec/44_status.md section 5,
the spec's own inference). -/
def Obligations.DecodedStatusValuesAreStable : Prop :=
  ∀ (r : StatusReg) (raw : Half) (flag : BitVec 4) (s : State), ∃ v : Half, v = raw &&& statusMask r ∧
    exec (stDec r raw) s = .next { s with rsp := some (.ok (v.setWidth 40)) } ∧
    exec (stDec r v) s = .next { s with rsp := some (.ok (v.setWidth 40)) } ∧
    exec (stBits r v) s = .next { s with rsp := some (.ok (v.setWidth 40)) } ∧
    exec (stTest r v flag) s = .next { s with rsp := some (.ok
      (if raw.getLsbD flag.toNat = true ∧ (statusMask r).getLsbD flag.toNat = true then 1#40 else 0#40)) }

/-- The masks have as many bits set as the source gives each register flags, none at or above the register's width:
8, 16, 8, 8, 8, 4, 7, 8, 6, 6 (spec/44_status.md section 1; the positions in the four partly used ones are open,
decision D14, log entry 6). -/
def Obligations.MasksHaveTheFlagCountsOfTheSource : Prop :=
  ∀ r : StatusReg,
    ((List.range 16).filter (statusMask r).getLsbD).length =
      (match r with
        | .byte => 8 | .word => 16 | .vout => 8 | .iout => 8 | .input => 8
        | .temp => 4 | .cml => 7 | .mfr => 8 | .fans12 => 6 | .fans34 => 6) ∧
    ∀ k : Nat, statusWidth r ≤ k → (statusMask r).getLsbD k = false
end

