-- ==== Sys2Proof/Laws/Config.lean ====
section
/-! SUPPORT. The lists the open masks are drawn from hold every byte of the right weight and no other (spec/44_status.md
R192), and their lengths are those of the ranges of the picks. -/

namespace Sys2Proof.Config

/-- A byte is in the list of weight k exactly when k of its bits are set. -/
theorem mem_masksOfWeight (k : Nat) (x : Byte) : x ∈ masksOfWeight k ↔ weight x = k := by
  simp only [masksOfWeight, List.mem_filter, List.mem_map, List.mem_range, beq_iff_eq, and_iff_right_iff_imp]
  exact fun _ => ⟨x.toNat, x.isLt, by simp⟩

theorem length_masksOfWeight_four : (masksOfWeight 4).length = 70 := by decide +kernel
theorem length_masksOfWeight_six : (masksOfWeight 6).length = 28 := by decide +kernel
theorem length_masksOfWeight_seven : (masksOfWeight 7).length = 8 := by decide +kernel

end Sys2Proof.Config
end

