-- ==== Sys2Proof/Laws/Encoding.lean ====
section
/-! SUPPORT. The bits of the packed records: where a port lies in the 167 bits of a request, and the fields of a
coefficient record and of a ModeSelection. -/

namespace Sys2Proof

/-- Bit k of a placed port. -/
theorem placePort_getLsbD {w : Nat} (offset : Nat) (x : BitVec w) (k : Nat) :
    (placePort offset x).getLsbD k = (decide (k < 167) && decide (offset ≤ k) && x.getLsbD (k - offset)) := by
  simp only [placePort, BitVec.getLsbD_shiftLeft, BitVec.getLsbD_setWidth]
  by_cases h : k < 167 <;> by_cases h' : offset ≤ k <;> simp [h, h']
  rw [decide_eq_false (by omega)]
  simp only [Bool.not_false, Bool.true_and, Bool.and_eq_right_iff_imp, decide_eq_true_eq]
  intro; omega

/-- A placed port below its offset. -/
theorem placePort_below {w : Nat} (offset : Nat) (x : BitVec w) (k : Nat) (h : k < offset) :
    (placePort offset x).getLsbD k = false := by
  rw [placePort_getLsbD, decide_eq_false (by omega : ¬ offset ≤ k)]; simp

/-- A placed port above its last bit. -/
theorem placePort_above {w : Nat} (offset : Nat) (x : BitVec w) (k : Nat) (h : offset + w ≤ k) :
    (placePort offset x).getLsbD k = false := by
  rw [placePort_getLsbD, BitVec.getLsbD_of_ge _ _ (by omega)]; simp

/-- A placed port from its offset on. -/
theorem placePort_inside {w : Nat} (offset : Nat) (x : BitVec w) (k : Nat) (h : k < 167) (h' : offset ≤ k) :
    (placePort offset x).getLsbD k = x.getLsbD (k - offset) := by
  rw [placePort_getLsbD, decide_eq_true h, decide_eq_true h']; simp

/-- Bit k of a packed coefficient record. -/
theorem packCoef_getLsbD (c : Coefficients) (k : Nat) :
    (packCoef c).getLsbD k =
      if k < 16 then c.m.getLsbD k else if k < 32 then c.b.getLsbD (k - 16) else c.r.getLsbD (k - 32) := by
  change (c.r ++ c.b ++ c.m).getLsbD k = _
  simp only [BitVec.getLsbD_append]
  split_ifs <;> first | rfl | omega

/-- Unpacking a packed coefficient record. -/
@[simp] theorem unpackCoef_packCoef (c : Coefficients) : unpackCoef (packCoef c) = c := by
  cases c
  simp only [unpackCoef, Coefficients.mk.injEq]
  refine ⟨?_, ?_, ?_⟩ <;>
  · apply BitVec.eq_of_getLsbD_eq
    intro k hk
    rw [BitVec.getLsbD_extractLsb', packCoef_getLsbD, decide_eq_true hk, Bool.true_and]
    split_ifs <;> first | omega | (congr 1; omega)

/-- Packing an unpacked coefficient record. -/
@[simp] theorem packCoef_unpackCoef (x : BitVec 40) : packCoef (unpackCoef x) = x := by
  apply BitVec.eq_of_getLsbD_eq
  intro k hk
  simp only [packCoef_getLsbD, unpackCoef, BitVec.getLsbD_extractLsb']
  split_ifs <;> (rw [decide_eq_true (by omega), Bool.true_and]; congr 1; omega)

/-- Bit k of a flag, a two-bit number and a byte side by side. -/
theorem modeBits_getLsbD (r : Bool) (n : BitVec 2) (e : Byte) (k : Nat) :
    BitVec.getLsbD (w := 11) (BitVec.ofBool r ++ n ++ e) k =
      if k < 8 then e.getLsbD k else if k < 10 then n.getLsbD (k - 8) else (decide (k = 10) && r) := by
  change (BitVec.ofBool r ++ n ++ e).getLsbD k = _
  simp only [BitVec.getLsbD_append, BitVec.getLsbD_ofBool]
  split_ifs with h1 h2 <;> first | rfl | omega | skip
  rw [show k - 8 - 2 = k - 10 by omega]
  by_cases hk : k = 10
  · simp [hk]
  · rw [decide_eq_false hk, decide_eq_false (by omega)]

/-- The parameter field of a packed ModeSelection. -/
theorem modeBits_param (r : Bool) (n : BitVec 2) (e : Byte) :
    BitVec.extractLsb' (n := 11) 0 8 (BitVec.ofBool r ++ n ++ e) = e := by
  apply BitVec.eq_of_getLsbD_eq
  intro k hk
  rw [BitVec.getLsbD_extractLsb', modeBits_getLsbD, decide_eq_true hk, Bool.true_and, Nat.zero_add, if_pos hk]

/-- The variant field of a packed ModeSelection. -/
theorem modeBits_variant (r : Bool) (n : BitVec 2) (e : Byte) :
    BitVec.extractLsb' (n := 11) 8 2 (BitVec.ofBool r ++ n ++ e) = n := by
  apply BitVec.eq_of_getLsbD_eq
  intro k hk
  rw [BitVec.getLsbD_extractLsb', modeBits_getLsbD, decide_eq_true hk, Bool.true_and, if_neg (by omega), if_pos (by omega),
    Nat.add_sub_cancel_left]

/-- The flag of a packed ModeSelection. -/
theorem modeBits_relative (r : Bool) (n : BitVec 2) (e : Byte) :
    BitVec.getLsbD (w := 11) (BitVec.ofBool r ++ n ++ e) 10 = r := by
  rw [modeBits_getLsbD]; simp

/-- Unpacking a packed ModeSelection. -/
@[simp] theorem unpackMode_packMode (x : ModeSelection) : unpackMode (packMode x) = x := by
  obtain ⟨r, v⟩ := x
  cases v <;>
    simp only [unpackMode, packMode, modeBits_param, modeBits_variant, modeBits_relative] <;> rfl

end Sys2Proof
end

