-- ==== Sys2Proof/Laws/Numeric.lean ====
section
/-! SUPPORT. The exact arithmetic of the model in Mathlib's terms: powers, absolute value, floor, and what the parts of
`rne32` find. -/

namespace Sys2Proof.Machine

/-- The model's power of two is Mathlib's. -/
theorem pow2_eq_zpow (n : Int) : pow2 n = (2 : ℚ) ^ n := by
  cases n with
  | ofNat k => simp [pow2]
  | negSucc k => simp [pow2, zpow_negSucc]

/-- The model's power of ten is Mathlib's. -/
theorem pow10_eq_zpow (n : Int) : pow10 n = (10 : ℚ) ^ n := by
  cases n with
  | ofNat k => simp [pow10]
  | negSucc k => simp [pow10, zpow_negSucc]

theorem pow2_pos (n : Int) : 0 < pow2 n := by rw [pow2_eq_zpow]; positivity

/-- `magnitude` is the absolute value. -/
theorem magnitude_eq_abs (q : Rat) : magnitude q = |q| := by
  unfold magnitude
  split
  · rename_i h; exact (abs_of_neg h).symm
  · rename_i h; exact (abs_of_nonneg (not_lt.mp h)).symm

/-- `rhaz` of a non-negative rational, with Mathlib's floor. -/
theorem rhaz_of_nonneg {q : Rat} (h : 0 ≤ q) : rhaz q = ⌊q + 1 / 2⌋ := by
  simp only [rhaz, h, if_true]; rfl

/-- `rhaz` of a negative rational, with Mathlib's floor. -/
theorem rhaz_of_neg {q : Rat} (h : q < 0) : rhaz q = -⌊-q + 1 / 2⌋ := by
  simp only [rhaz, not_le.mpr h, if_false]; rfl

/-- `floorLog2` finds the binade of a positive rational. -/
theorem floorLog2_spec {a : Rat} (ha : 0 < a) : pow2 (floorLog2 a) ≤ a ∧ a < pow2 (floorLog2 a + 1) := by
  have hnum : 0 < a.num := Rat.num_pos.mpr ha
  have hn : a.num.natAbs ≠ 0 := Int.natAbs_ne_zero.mpr hnum.ne'
  have hd : a.den ≠ 0 := a.den_nz
  have hval : a = (a.num.natAbs : ℚ) / (a.den : ℚ) := by
    have h1 : ((a.num.natAbs : ℕ) : ℚ) = (a.num : ℚ) := by
      rw [← Int.cast_natCast, Int.natCast_natAbs, abs_of_pos hnum]
    rw [h1, Rat.num_div_den]
  set n := a.num.natAbs with hn'
  set d := a.den with hd'
  have hn1 : ((2 : ℚ) ^ n.log2) ≤ n := by exact_mod_cast Nat.log2_self_le hn
  have hn2 : (n : ℚ) < (2 : ℚ) ^ (n.log2 + 1) := by exact_mod_cast Nat.lt_log2_self
  have hd1 : ((2 : ℚ) ^ d.log2) ≤ d := by exact_mod_cast Nat.log2_self_le hd
  have hd2 : (d : ℚ) < (2 : ℚ) ^ (d.log2 + 1) := by exact_mod_cast Nat.lt_log2_self
  have hdpos : (0 : ℚ) < d := by exact_mod_cast Nat.pos_of_ne_zero hd
  have h2 : (2 : ℚ) ≠ 0 := two_ne_zero
  have up : a < (2 : ℚ) ^ ((n.log2 : Int) - (d.log2 : Int) + 1) := by
    rw [hval, div_lt_iff₀ hdpos]
    calc (n : ℚ) < 2 ^ (n.log2 + 1) := hn2
      _ = (2 : ℚ) ^ ((n.log2 : Int) - (d.log2 : Int) + 1) * 2 ^ d.log2 := by
        rw [← zpow_natCast, ← zpow_natCast, ← zpow_add₀ h2]; congr 1; push_cast; ring
      _ ≤ _ := by gcongr
  have lo : (2 : ℚ) ^ ((n.log2 : Int) - (d.log2 : Int) - 1) ≤ a := by
    rw [hval, le_div_iff₀ hdpos]
    calc (2 : ℚ) ^ ((n.log2 : Int) - (d.log2 : Int) - 1) * d
        ≤ (2 : ℚ) ^ ((n.log2 : Int) - (d.log2 : Int) - 1) * 2 ^ (d.log2 + 1) := by gcongr
      _ = 2 ^ n.log2 := by
        rw [← zpow_natCast, ← zpow_natCast, ← zpow_add₀ h2]; congr 1; push_cast; ring
      _ ≤ n := hn1
  unfold floorLog2
  simp only [← hn', ← hd', pow2_eq_zpow]
  split
  · rename_i h; exact ⟨h, up⟩
  · rename_i h; exact ⟨lo, by simpa using not_le.mp h⟩

/-- `roundHalfEven` returns a nearest integer, the even one of a tie. -/
theorem roundHalfEven_spec (x : Rat) :
    |x - (roundHalfEven x : ℚ)| ≤ 1 / 2 ∧ (|x - (roundHalfEven x : ℚ)| = 1 / 2 → roundHalfEven x % 2 = 0) := by
  have h0 : (x.floor : ℚ) ≤ x := Int.floor_le x
  have h1 : x < (x.floor : ℚ) + 1 := Int.lt_floor_add_one x
  unfold roundHalfEven
  simp only
  split
  · rw [abs_of_nonneg (by linarith)]
    exact ⟨by linarith, fun h => by linarith⟩
  · split
    · push_cast
      rw [abs_of_nonpos (by linarith)]
      exact ⟨by linarith, fun h => by linarith⟩
    · have : x - (x.floor : ℚ) = 1 / 2 := le_antisymm (by linarith) (by linarith)
      split
      · rw [this]; exact ⟨by norm_num, fun _ => by assumption⟩
      · push_cast
        rw [show x - ((x.floor : ℚ) + 1) = -(1 / 2) by linarith]
        exact ⟨by norm_num, fun _ => by omega⟩

/-- The magnitude a finite binary32 denotes, as one formula over the exponent of its last place. -/
theorem realMagnitude_nonneg (f : F32) : 0 ≤ realMagnitude f := by
  unfold realMagnitude
  split <;> exact mul_nonneg (by positivity) (pow2_pos _).le

/-- The magnitude of `real` is `realMagnitude`. -/
theorem abs_real (f : F32) : |real f| = realMagnitude f := by
  unfold real
  split
  · rw [abs_neg, abs_of_nonneg (realMagnitude_nonneg f)]
  · rw [abs_of_nonneg (realMagnitude_nonneg f)]

end Sys2Proof.Machine
end

