-- ==== Sys2Proof/Laws/State.lean ====
section
/-! SUPPORT. One lemma per field per update of the state, and what one update does to another. -/

namespace Sys2Proof.Machine

@[simp] theorem State.reset_req : State.reset.req = none := rfl
@[simp] theorem State.reset_rsp : State.reset.rsp = none := rfl

@[simp] theorem State.answer_req (s : State) (r : Response) : (s.answer r).req = s.req := rfl
@[simp] theorem State.answer_rsp (s : State) (r : Response) : (s.answer r).rsp = some r := rfl
@[simp] theorem State.answer_answer (s : State) (r r' : Response) : (s.answer r).answer r' = s.answer r' := rfl

@[simp] theorem State.present_req (s : State) (q : Request) : (s.present q).req = some q := rfl
@[simp] theorem State.present_rsp (s : State) (q : Request) : (s.present q).rsp = s.rsp := rfl
@[simp] theorem State.present_present (s : State) (q q' : Request) : (s.present q).present q' = s.present q' := rfl

/-- A request put on the ports of an answered state is the same request put before the answer. -/
theorem State.answer_present (s : State) (r : Response) (q : Request) :
    (s.answer r).present q = (s.present q).answer r := rfl

@[simp] theorem State.withFetchWord_req (s : State) (nbits w : Nat) :
    (s.withFetchWord nbits w).req = some (tableRequest nbits w) := rfl
@[simp] theorem State.withFetchWord_rsp (s : State) (nbits w : Nat) :
    (s.withFetchWord nbits w).rsp = s.rsp := rfl

end Sys2Proof.Machine
end

