-- ==== Sys2Proof/Laws/Ops.lean ====
section
/-! SUPPORT. What each shared operation can do, once. -/

namespace Sys2Proof.Machine

/-- `respond` answers a next state, with status OK and the value in the low bits. -/
theorem respond_spec {w : Nat} (v : BitVec w) (s : State) :
    respond v s = .next (s.answer (.ok (v.setWidth 40))) := rfl

/-- `raiseError` answers a next state that differs in the response only. -/
theorem raiseError_spec (e : ErrorKind) (s : State) : raiseError e s = .next (s.answer (.error e)) := rfl

/-- `deliver` of a value is `respond`. -/
@[simp] theorem deliver_ok {w : Nat} (v : BitVec w) (s : State) : deliver (.ok v) s = respond v s := rfl

/-- `deliver` of an error raises it. -/
@[simp] theorem deliver_error {w : Nat} (e : ErrorKind) (s : State) :
    deliver (.error e : Except ErrorKind (BitVec w)) s = raiseError e s := rfl

/-- All `deliver` can do: return a value of the operation's width, or raise an error. -/
theorem deliver_cases {w : Nat} (r : Except ErrorKind (BitVec w)) (s : State) :
    (∃ v, r = .ok v ∧ deliver r s = respond v s) ∨ (∃ e, r = .error e ∧ deliver r s = raiseError e s) := by
  cases r with
  | ok v => exact .inl ⟨v, rfl, rfl⟩
  | error e => exact .inr ⟨e, rfl, rfl⟩

/-- All `rejectRequest` can do: raise IllegalOp. -/
@[simp] theorem rejectRequest_spec (e : DecodeError) (s : State) : rejectRequest e s = raiseError .illegalOp s := by
  cases e; rfl

/-- The result of an operation of width w has no bit at or above w on the port. -/
theorem okResponse_toNat_lt {w : Nat} (hw : w ≤ 40) (v : BitVec w) : (v.setWidth 40).toNat < 2 ^ w := by
  rw [BitVec.toNat_setWidth_of_le hw]; exact v.isLt

end Sys2Proof.Machine
end

