-- ==== Sys2Proof/Laws/PerInstr.lean ====
section
/-! SUPPORT. A law of every instruction as syntax, one lemma per constructor: its encoding carries an `op` value of the
table of spec/30_encoding.md R61. -/

namespace Sys2Proof.Laws

/-- The encoding of an instruction carries its own `op` value, one of the 39 legal ones. -/
def OpcodeInTable.Statement (i : Instr) : Prop :=
  (encode i).op = opcode i ∧ opcode i ∈ Safety.legalOps

theorem OpcodeInTable.lf16Dec (raw : Half) :
    OpcodeInTable.Statement (.lf16Dec raw) := ⟨rfl, by simp [opcode, Safety.legalOps]⟩

theorem OpcodeInTable.lf16Enc (val : F32) :
    OpcodeInTable.Statement (.lf16Enc val) := ⟨rfl, by simp [opcode, Safety.legalOps]⟩

theorem OpcodeInTable.lfx16Dec (raw : Half) (exp : Byte) :
    OpcodeInTable.Statement (.lfx16Dec raw exp) := ⟨rfl, by simp [opcode, Safety.legalOps]⟩

theorem OpcodeInTable.lfx16Enc (val : F32) (exp : Byte) :
    OpcodeInTable.Statement (.lfx16Enc val exp) := ⟨rfl, by simp [opcode, Safety.legalOps]⟩

theorem OpcodeInTable.dirDec (coef : Coefficients) (raw : Half) :
    OpcodeInTable.Statement (.dirDec coef raw) := ⟨rfl, by simp [opcode, Safety.legalOps]⟩

theorem OpcodeInTable.dirEnc (coef : Coefficients) (val : F32) :
    OpcodeInTable.Statement (.dirEnc coef val) := ⟨rfl, by simp [opcode, Safety.legalOps]⟩

theorem OpcodeInTable.dirCoef (buf : BitVec 40) (len : Byte) :
    OpcodeInTable.Statement (.dirCoef buf len) := ⟨rfl, by simp [opcode, Safety.legalOps]⟩

theorem OpcodeInTable.vmDec (raw : Byte) :
    OpcodeInTable.Statement (.vmDec raw) := ⟨rfl, by simp [opcode, Safety.legalOps]⟩

theorem OpcodeInTable.vmEnc (mode : ModeSelection) :
    OpcodeInTable.Statement (.vmEnc mode) := ⟨rfl, by simp [opcode, Safety.legalOps]⟩

theorem OpcodeInTable.stDecByte (raw : Byte) :
    OpcodeInTable.Statement (.stDecByte raw) := ⟨rfl, by simp [opcode, Safety.legalOps]⟩

theorem OpcodeInTable.stDecWord (raw : Half) :
    OpcodeInTable.Statement (.stDecWord raw) := ⟨rfl, by simp [opcode, Safety.legalOps]⟩

theorem OpcodeInTable.stDecVout (raw : Byte) :
    OpcodeInTable.Statement (.stDecVout raw) := ⟨rfl, by simp [opcode, Safety.legalOps]⟩

theorem OpcodeInTable.stDecIout (raw : Byte) :
    OpcodeInTable.Statement (.stDecIout raw) := ⟨rfl, by simp [opcode, Safety.legalOps]⟩

theorem OpcodeInTable.stDecInput (raw : Byte) :
    OpcodeInTable.Statement (.stDecInput raw) := ⟨rfl, by simp [opcode, Safety.legalOps]⟩

theorem OpcodeInTable.stDecTemp (raw : Byte) :
    OpcodeInTable.Statement (.stDecTemp raw) := ⟨rfl, by simp [opcode, Safety.legalOps]⟩

theorem OpcodeInTable.stDecCml (raw : Byte) :
    OpcodeInTable.Statement (.stDecCml raw) := ⟨rfl, by simp [opcode, Safety.legalOps]⟩

theorem OpcodeInTable.stDecMfr (raw : Byte) :
    OpcodeInTable.Statement (.stDecMfr raw) := ⟨rfl, by simp [opcode, Safety.legalOps]⟩

theorem OpcodeInTable.stDecFans12 (raw : Byte) :
    OpcodeInTable.Statement (.stDecFans12 raw) := ⟨rfl, by simp [opcode, Safety.legalOps]⟩

theorem OpcodeInTable.stDecFans34 (raw : Byte) :
    OpcodeInTable.Statement (.stDecFans34 raw) := ⟨rfl, by simp [opcode, Safety.legalOps]⟩

theorem OpcodeInTable.stBitsByte (raw : Byte) :
    OpcodeInTable.Statement (.stBitsByte raw) := ⟨rfl, by simp [opcode, Safety.legalOps]⟩

theorem OpcodeInTable.stBitsWord (raw : Half) :
    OpcodeInTable.Statement (.stBitsWord raw) := ⟨rfl, by simp [opcode, Safety.legalOps]⟩

theorem OpcodeInTable.stBitsVout (raw : Byte) :
    OpcodeInTable.Statement (.stBitsVout raw) := ⟨rfl, by simp [opcode, Safety.legalOps]⟩

theorem OpcodeInTable.stBitsIout (raw : Byte) :
    OpcodeInTable.Statement (.stBitsIout raw) := ⟨rfl, by simp [opcode, Safety.legalOps]⟩

theorem OpcodeInTable.stBitsInput (raw : Byte) :
    OpcodeInTable.Statement (.stBitsInput raw) := ⟨rfl, by simp [opcode, Safety.legalOps]⟩

theorem OpcodeInTable.stBitsTemp (raw : Byte) :
    OpcodeInTable.Statement (.stBitsTemp raw) := ⟨rfl, by simp [opcode, Safety.legalOps]⟩

theorem OpcodeInTable.stBitsCml (raw : Byte) :
    OpcodeInTable.Statement (.stBitsCml raw) := ⟨rfl, by simp [opcode, Safety.legalOps]⟩

theorem OpcodeInTable.stBitsMfr (raw : Byte) :
    OpcodeInTable.Statement (.stBitsMfr raw) := ⟨rfl, by simp [opcode, Safety.legalOps]⟩

theorem OpcodeInTable.stBitsFans12 (raw : Byte) :
    OpcodeInTable.Statement (.stBitsFans12 raw) := ⟨rfl, by simp [opcode, Safety.legalOps]⟩

theorem OpcodeInTable.stBitsFans34 (raw : Byte) :
    OpcodeInTable.Statement (.stBitsFans34 raw) := ⟨rfl, by simp [opcode, Safety.legalOps]⟩

theorem OpcodeInTable.stTestByte (raw : Byte) (flag : BitVec 4) :
    OpcodeInTable.Statement (.stTestByte raw flag) := ⟨rfl, by simp [opcode, Safety.legalOps]⟩

theorem OpcodeInTable.stTestWord (raw : Half) (flag : BitVec 4) :
    OpcodeInTable.Statement (.stTestWord raw flag) := ⟨rfl, by simp [opcode, Safety.legalOps]⟩

theorem OpcodeInTable.stTestVout (raw : Byte) (flag : BitVec 4) :
    OpcodeInTable.Statement (.stTestVout raw flag) := ⟨rfl, by simp [opcode, Safety.legalOps]⟩

theorem OpcodeInTable.stTestIout (raw : Byte) (flag : BitVec 4) :
    OpcodeInTable.Statement (.stTestIout raw flag) := ⟨rfl, by simp [opcode, Safety.legalOps]⟩

theorem OpcodeInTable.stTestInput (raw : Byte) (flag : BitVec 4) :
    OpcodeInTable.Statement (.stTestInput raw flag) := ⟨rfl, by simp [opcode, Safety.legalOps]⟩

theorem OpcodeInTable.stTestTemp (raw : Byte) (flag : BitVec 4) :
    OpcodeInTable.Statement (.stTestTemp raw flag) := ⟨rfl, by simp [opcode, Safety.legalOps]⟩

theorem OpcodeInTable.stTestCml (raw : Byte) (flag : BitVec 4) :
    OpcodeInTable.Statement (.stTestCml raw flag) := ⟨rfl, by simp [opcode, Safety.legalOps]⟩

theorem OpcodeInTable.stTestMfr (raw : Byte) (flag : BitVec 4) :
    OpcodeInTable.Statement (.stTestMfr raw flag) := ⟨rfl, by simp [opcode, Safety.legalOps]⟩

theorem OpcodeInTable.stTestFans12 (raw : Byte) (flag : BitVec 4) :
    OpcodeInTable.Statement (.stTestFans12 raw flag) := ⟨rfl, by simp [opcode, Safety.legalOps]⟩

theorem OpcodeInTable.stTestFans34 (raw : Byte) (flag : BitVec 4) :
    OpcodeInTable.Statement (.stTestFans34 raw flag) := ⟨rfl, by simp [opcode, Safety.legalOps]⟩

end Sys2Proof.Laws
end

