-- ==== Sys2Proof/Tests/Slice0.lean ====
section
/-! SUPPORT. The model's own tests. Expected results are from spec/95_test_vectors.md or computed by hand from the rule
named; each runs one operation or one step. Then a witness for the hypotheses of each statement. -/

namespace Sys2Proof.Tests

-- Each `decide +kernel` waits for all declarations before it; in parallel that is one waiting thread per test.
set_option Elab.async false

open Sys2Proof Sys2Proof.Machine Sys2Proof.Safety

/-- One step on a request gives this response. -/
def answers (q : Request) (r : Response) : Bool :=
  match step { req := some q, rsp := none } with
  | .next s => s.rsp == some r
  | .fault _ => false
  | .refused _ => false

/-! ## Decoding: the words are written out from R27's widths, R60's order and R61's `op` values -/

theorem test_decode_lf16Dec :
    decode (requestOfBits 0xF0D000#167) = .ok (.lf16Dec 0xF0D0#16) := by decide
theorem test_decode_lf16Enc :
    decode (requestOfBits 0x42500001000001#167) = .ok (.lf16Enc 0x42500001#32) := by decide
theorem test_decode_lfx16Dec :
    decode (requestOfBits 0xF40000000084CD10#167) = .ok (.lfx16Dec 0x84CD#16 0xF4#8) := by decide
theorem test_decode_lfx16Enc :
    decode (requestOfBits 0xF43E99999A000011#167) = .ok (.lfx16Enc 0x3E99999A#32 0xF4#8) := by decide
theorem test_decode_dirDec :
    decode (requestOfBits 0x1FF9C00020000000000802320#167) = .ok (.dirDec { m := 0x0002#16, b := 0xFF9C#16, r := 0x01#8 } 0x8023#16) := by decide
theorem test_decode_dirEnc :
    decode (requestOfBits 0x807FFF80000043834000000021#167) = .ok (.dirEnc { m := 0x8000#16, b := 0x7FFF#16, r := 0x80#8 } 0x43834000#32) := by decide
theorem test_decode_dirCoef :
    decode (requestOfBits 0x8501FF9C000200000000000000000000000022#167) = .ok (.dirCoef 0x01FF9C0002#40 0x85#8) := by decide
theorem test_decode_vmDec :
    decode (requestOfBits 0xA59330#167) = .ok (.vmDec 0x93#8) := by decide
theorem test_decode_vmEnc :
    decode (requestOfBits 0x4F300000000000000000000000000000000000031#167) = .ok (.vmEnc { relative := true, variant := .fixedExponent 0xF3#8 }) := by decide
theorem test_decode_stDecByte :
    decode (requestOfBits 0xA5C340#167) = .ok (.stDecByte 0xC3#8) := by decide
theorem test_decode_stDecWord :
    decode (requestOfBits 0xA5C341#167) = .ok (.stDecWord 0xA5C3#16) := by decide
theorem test_decode_stDecVout :
    decode (requestOfBits 0xA5C342#167) = .ok (.stDecVout 0xC3#8) := by decide
theorem test_decode_stDecIout :
    decode (requestOfBits 0xA5C343#167) = .ok (.stDecIout 0xC3#8) := by decide
theorem test_decode_stDecInput :
    decode (requestOfBits 0xA5C344#167) = .ok (.stDecInput 0xC3#8) := by decide
theorem test_decode_stDecTemp :
    decode (requestOfBits 0xA5C345#167) = .ok (.stDecTemp 0xC3#8) := by decide
theorem test_decode_stDecCml :
    decode (requestOfBits 0xA5C346#167) = .ok (.stDecCml 0xC3#8) := by decide
theorem test_decode_stDecMfr :
    decode (requestOfBits 0xA5C347#167) = .ok (.stDecMfr 0xC3#8) := by decide
theorem test_decode_stDecFans12 :
    decode (requestOfBits 0xA5C348#167) = .ok (.stDecFans12 0xC3#8) := by decide
theorem test_decode_stDecFans34 :
    decode (requestOfBits 0xA5C349#167) = .ok (.stDecFans34 0xC3#8) := by decide
theorem test_decode_stBitsByte :
    decode (requestOfBits 0x5A8150#167) = .ok (.stBitsByte 0x81#8) := by decide
theorem test_decode_stBitsWord :
    decode (requestOfBits 0x5A8151#167) = .ok (.stBitsWord 0x5A81#16) := by decide
theorem test_decode_stBitsVout :
    decode (requestOfBits 0x5A8152#167) = .ok (.stBitsVout 0x81#8) := by decide
theorem test_decode_stBitsIout :
    decode (requestOfBits 0x5A8153#167) = .ok (.stBitsIout 0x81#8) := by decide
theorem test_decode_stBitsInput :
    decode (requestOfBits 0x5A8154#167) = .ok (.stBitsInput 0x81#8) := by decide
theorem test_decode_stBitsTemp :
    decode (requestOfBits 0x5A8155#167) = .ok (.stBitsTemp 0x81#8) := by decide
theorem test_decode_stBitsCml :
    decode (requestOfBits 0x5A8156#167) = .ok (.stBitsCml 0x81#8) := by decide
theorem test_decode_stBitsMfr :
    decode (requestOfBits 0x5A8157#167) = .ok (.stBitsMfr 0x81#8) := by decide
theorem test_decode_stBitsFans12 :
    decode (requestOfBits 0x5A8158#167) = .ok (.stBitsFans12 0x81#8) := by decide
theorem test_decode_stBitsFans34 :
    decode (requestOfBits 0x5A8159#167) = .ok (.stBitsFans34 0x81#8) := by decide
theorem test_decode_stTestByte :
    decode (requestOfBits 0x4800000000000000000000000000000000003CE760#167) = .ok (.stTestByte 0xE7#8 9#4) := by decide
theorem test_decode_stTestWord :
    decode (requestOfBits 0x5000000000000000000000000000000000003CE761#167) = .ok (.stTestWord 0x3CE7#16 10#4) := by decide
theorem test_decode_stTestVout :
    decode (requestOfBits 0x5800000000000000000000000000000000003CE762#167) = .ok (.stTestVout 0xE7#8 11#4) := by decide
theorem test_decode_stTestIout :
    decode (requestOfBits 0x6000000000000000000000000000000000003CE763#167) = .ok (.stTestIout 0xE7#8 12#4) := by decide
theorem test_decode_stTestInput :
    decode (requestOfBits 0x6800000000000000000000000000000000003CE764#167) = .ok (.stTestInput 0xE7#8 13#4) := by decide
theorem test_decode_stTestTemp :
    decode (requestOfBits 0x7000000000000000000000000000000000003CE765#167) = .ok (.stTestTemp 0xE7#8 14#4) := by decide
theorem test_decode_stTestCml :
    decode (requestOfBits 0x7800000000000000000000000000000000003CE766#167) = .ok (.stTestCml 0xE7#8 15#4) := by decide
theorem test_decode_stTestMfr :
    decode (requestOfBits 0x3CE767#167) = .ok (.stTestMfr 0xE7#8 0#4) := by decide
theorem test_decode_stTestFans12 :
    decode (requestOfBits 0x800000000000000000000000000000000003CE768#167) = .ok (.stTestFans12 0xE7#8 1#4) := by decide
theorem test_decode_stTestFans34 :
    decode (requestOfBits 0x1000000000000000000000000000000000003CE769#167) = .ok (.stTestFans34 0xE7#8 2#4) := by decide

/-- The three other variants of a mode record (R69); `param` is ignored for the last two. -/
theorem test_decode_mode_variants :
    unpackMode 0x11F#11 = { relative := false, variant := .vidCode 0x1F#8 } ∧
      unpackMode 0x6FF#11 = { relative := true, variant := .directFormat } ∧
      unpackMode 0x301#11 = { relative := false, variant := .ieeeHalfFormat } := by decide

/-- Reserved `op` values at the edges of R62's ranges. -/
theorem test_decode_reserved :
    ([0x02, 0x0F, 0x12, 0x1F, 0x23, 0x2F, 0x32, 0x3F, 0x4A, 0x4F, 0x5A, 0x5F, 0x6A, 0x6F, 0x70, 0xFF] : List Byte).all
      (fun n => match decode { blankRequest with op := n } with
        | .ok _ => false
        | .error e => e == .illegalOp n) = true := by decide

/-! ## Well-formedness: an ill-formed term for each check -/

theorem test_wellFormed_refuses_zero_slope :
    (Instr.dirDec { m := 0, b := 5, r := 0 } 35).wellFormed = false := by decide
theorem test_wellFormed_refuses_wide_exponent :
    (Instr.vmEnc { relative := false, variant := .fixedExponent 16 }).wellFormed = false := by decide
theorem test_wellFormed_refuses_wide_code :
    (Instr.vmEnc { relative := false, variant := .vidCode 32 }).wellFormed = false := by decide
theorem test_wellFormed_refuses_stray_bits : (Instr.stBitsTemp 0xFF).wellFormed = false := by
  have h : ∀ p : Fin 70, byteInVocabulary ((Config.masksOfWeight 4).getD p.val 0) 0xFF = false := by decide +kernel
  exact h Config.tempPick
theorem test_wellFormed_refuses_stray_bits_in_test : (Instr.stTestCml 0xFF 0).wellFormed = false := by
  have h : ∀ p : Fin 8, (byteInVocabulary ((Config.masksOfWeight 7).getD p.val 0) 0xFF &&
      flagInVocabulary ((Config.masksOfWeight 7).getD p.val 0) 0) = false := by decide +kernel
  exact h Config.cmlPick
theorem test_wellFormed_refuses_absent_flag : (Instr.stTestByte 0xFF 8).wellFormed = false := by decide
theorem test_wellFormed_accepts :
    (Instr.dirDec { m := 10, b := 5, r := 0 } 35).wellFormed = true ∧
      (Instr.vmEnc { relative := false, variant := .fixedExponent 0xF0 }).wellFormed = true ∧
      (Instr.stTestByte 0x80 7).wellFormed = true := by decide

/-! ## The open masks -/

/-- The defaults of R192 are among the masks the model allows. -/
theorem test_default_masks_are_allowed :
    Config.defaultMaskTemp ∈ Config.masksOfWeight 4 ∧ Config.defaultMaskCml ∈ Config.masksOfWeight 7 ∧
      Config.defaultMaskFans12 ∈ Config.masksOfWeight 6 ∧ Config.defaultMaskFans34 ∈ Config.masksOfWeight 6 := by
  decide +kernel

/-- At the default masks, the vectors of R198, R199, R201 and R202. -/
theorem test_default_masks :
    (0x8F &&& Config.defaultMaskTemp : Byte) = 0x80 ∧ (0x04 &&& Config.defaultMaskCml : Byte) = 0x00 ∧
      (0x03 &&& Config.defaultMaskFans12 : Byte) = 0x00 ∧ (0xA7 &&& Config.defaultMaskFans34 : Byte) = 0xA4 := by decide

/-! ## Rounding (R12 and spec/95_test_vectors.md sections 2.1, 2.3) -/

theorem test_rhaz :
    rhaz (5 / 2) = 3 ∧ rhaz (-5 / 2) = -3 ∧ rhaz (1 / 2) = 1 ∧ rhaz (-1 / 2) = -1 ∧ rhaz (49 / 100) = 0 ∧
      rhaz (-49 / 100) = 0 ∧ rhaz 0 = 0 := by decide +kernel
theorem test_rne32 :
    rne32 (1 / 3) = 0x3EAAAAAB ∧ rne32 (pow2 (-149)) = 0x00000001 ∧ rne32 (pow2 (-150)) = 0x00000000 ∧
      rne32 (pow2 128 - pow2 103) = 0x7F800000 ∧ rne32 (-32773 / 10) = 0xC54CD4CD := by decide +kernel
theorem test_real : real 0x00000001 = pow2 (-149) ∧ real 0xC0200000 = -5 / 2 ∧ real 0x80000000 = 0 := by decide +kernel

/-! ## One step per vector of spec/95_test_vectors.md -/

/-- S1 -/
theorem test_lf16Dec : answers { blankRequest with op := 0x0, raw := 0xF0D0 } (.ok 0x42500000) = true := by decide +kernel
/-- both fields negative -/
theorem test_lf16Dec_negative : answers { blankRequest with op := 0x0, raw := 0x8400 } (.ok 0xBC800000) = true := by decide +kernel
/-- least valid exponent -/
theorem test_lf16Enc : answers { blankRequest with op := 0x1, val := 0x42500000 } (.ok 0xE340) = true := by decide +kernel
/-- -1024.5 × 2^15 -/
theorem test_lf16Enc_bound : answers { blankRequest with op := 0x1, val := 0xCC001000 } (.error .encodingError) = true := by decide +kernel
/-- the word is unsigned -/
theorem test_lfx16Dec : answers { blankRequest with op := 0x10, raw := 0xFFFF, exp := 0xF4 } (.ok 0x417FFF00) = true := by decide +kernel
/-- subnormal kept -/
theorem test_lfx16Dec_subnormal : answers { blankRequest with op := 0x10, raw := 0x3, exp := 0x80 } (.ok 0x600000) = true := by decide +kernel
/-- S7 -/
theorem test_lfx16Enc : answers { blankRequest with op := 0x11, val := 0x3E99999A, exp := 0xF4 } (.ok 0x4CD) = true := by decide +kernel
/-- 65535.5 -/
theorem test_lfx16Enc_bound : answers { blankRequest with op := 0x11, val := 0x477FFF80, exp := 0x0 } (.error .encodingError) = true := by decide +kernel
/-- (-3, 7, 1) -/
theorem test_dirDec : answers { blankRequest with op := 0x20, coef := 0x10007FFFD, raw := 0x64 } (.ok 0xBF800000) = true := by decide +kernel
/-- R = -128 -/
theorem test_dirDec_fallback : answers { blankRequest with op := 0x20, coef := 0x800005000A, raw := 0x23 } (.ok 0x40400000) = true := by decide +kernel
/-- (1, 0, -2): scaled, then rounded -/
theorem test_dirEnc : answers { blankRequest with op := 0x21, coef := 0xFE00000001, val := 0xC49C4000 } (.ok 0xFFF3) = true := by decide +kernel
/-- 32767.5 -/
theorem test_dirEnc_bound : answers { blankRequest with op := 0x21, coef := 0x5000A, val := 0x454CC400 } (.error .encodingError) = true := by decide +kernel
/-- little-endian -/
theorem test_dirCoef : answers { blankRequest with op := 0x22, buf := 0x1FF9C0002, len := 0x5 } (.ok 0x1FF9C0002) = true := by decide +kernel
/-- one short -/
theorem test_dirCoef_short : answers { blankRequest with op := 0x22, buf := 0x5000A, len := 0x4 } (.error .invalidResponseLength) = true := by decide +kernel
/-- relative, FixedExponent(-13) -/
theorem test_vmDec : answers { blankRequest with op := 0x30, raw := 0x93 } (.ok 0x4F3) = true := by decide +kernel
/-- S14 -/
theorem test_vmDec_reserved : answers { blankRequest with op := 0x30, raw := 0x5F } (.ok 0x200) = true := by decide +kernel
/-- S12 -/
theorem test_vmEnc : answers { blankRequest with op := 0x31, mode := 0xF3 } (.ok 0x13) = true := by decide +kernel
/-- D16 -/
theorem test_vmEnc_wide : answers { blankRequest with op := 0x31, mode := 0x1FF } (.ok 0x3F) = true := by decide +kernel
theorem test_stDecByte : answers { blankRequest with op := 0x40, raw := 0x12C3 } (.ok 0xC3) = true := by decide +kernel
theorem test_stDecWord : answers { blankRequest with op := 0x41, raw := 0xA5C3 } (.ok 0xA5C3) = true := by decide +kernel
theorem test_stDecVout : answers { blankRequest with op := 0x42, raw := 0x90 } (.ok 0x90) = true := by decide +kernel
theorem test_stDecIout : answers { blankRequest with op := 0x43, raw := 0x1 } (.ok 0x1) = true := by decide +kernel
theorem test_stDecInput : answers { blankRequest with op := 0x44, raw := 0x18 } (.ok 0x18) = true := by decide +kernel
theorem test_stDecMfr : answers { blankRequest with op := 0x47, raw := 0x5A } (.ok 0x5A) = true := by decide +kernel
theorem test_stBitsWord : answers { blankRequest with op := 0x51, raw := 0xA5C3 } (.ok 0xA5C3) = true := by decide +kernel
/-- raw[15:8] ignored -/
theorem test_stBitsByte : answers { blankRequest with op := 0x50, raw := 0xFF81 } (.ok 0x81) = true := by decide +kernel
theorem test_stTestWord : answers { blankRequest with op := 0x61, raw := 0x8000, flag := 0xF } (.ok 0x1) = true := by decide +kernel
theorem test_stTestWord_clear : answers { blankRequest with op := 0x61, raw := 0x8000, flag := 0xE } (.ok 0x0) = true := by decide +kernel
theorem test_stTestByte : answers { blankRequest with op := 0x60, raw := 0x80, flag := 0x7 } (.ok 0x1) = true := by decide +kernel
/-- position beyond an 8-bit register -/
theorem test_stTestByte_beyond : answers { blankRequest with op := 0x60, raw := 0xFFFF, flag := 0x8 } (.ok 0x0) = true := by decide +kernel
/-- section 2.6 -/
theorem test_illegalOp : answers { blankRequest with op := 0x4A, raw := 0xFFFF } (.error .illegalOp) = true := by decide +kernel
/-- The masked registers: a raw zero stays zero and no answer has a bit the raw byte lacks, whatever the mask. -/
theorem test_masked_registers :
    ∀ p : Fin 70, ((Config.masksOfWeight 4).getD p.val 0 &&& 0x00 : Byte) = 0 ∧
      ((Config.masksOfWeight 4).getD p.val 0 &&& 0x8F) &&& 0x70 = (0 : Byte) := by decide +kernel
/-- The response codes of R231. -/
theorem test_status_codes :
    (Response.ok 5).status = 0 ∧ (Response.error .encodingError).status = 1 ∧
      (Response.error .invalidResponseLength).status = 2 ∧ (Response.error .illegalOp).status = 3 ∧
      (Response.ok 5).result? = some 5 ∧ (Response.error .illegalOp).result? = none := by decide
/-- The table's numbering: `op` alone, every other port 0. -/
theorem test_decodeTableWord : decodeTableWord 8 0x65 = some (.stTestTemp 0 0) ∧ decodeTableWord 8 0x4A = none := by
  decide

/-! ## Witnesses: states and operands that meet the hypotheses of each statement -/

/-- A state with a request for VM.DEC and its response. -/
def servedState : State :=
  { req := some { blankRequest with op := 0x30, raw := 0x13 }, rsp := some (.ok 0x0F3) }

/-- A state with a request and a response left from an earlier one. -/
def staleState (q : Request) : State := { req := some q, rsp := some (.ok 0x42500000) }

theorem witness_DecodingKeepsEveryPortBitThatIsRead :
    (decode { blankRequest with op := 0x11, val := 1, exp := 0x80 } = .ok (.lfx16Enc 1 0x80) ∧
      ({ blankRequest with op := 0x11, val := 1, exp := 0x80 } : Request).op ≠ 0x31#8) ∧
    (decode { blankRequest with op := 0x31, mode := 0x5FF } =
        .ok (.vmEnc { relative := true, variant := .vidCode 0xFF }) ∧
      ({ blankRequest with op := 0x31, mode := 0x5FF } : Request).mode.getLsbD 9 = false) ∧
    decode { blankRequest with op := 0x31, mode := 0x2FF } =
      .ok (.vmEnc { relative := false, variant := .directFormat }) := by decide

theorem witness_ReservedOpsAndNoOthersRaiseIllegalOp :
    (staleState { blankRequest with op := 0x02 }).req = some { blankRequest with op := 0x02 } ∧
      reservedOp 0x02 ∧ reservedOp 0x0F ∧ reservedOp 0x12 ∧ reservedOp 0x1F ∧ reservedOp 0x23 ∧ reservedOp 0x2F ∧
      reservedOp 0x32 ∧ reservedOp 0x3F ∧ reservedOp 0x4A ∧ reservedOp 0x4F ∧ reservedOp 0x5A ∧ reservedOp 0x5F ∧
      reservedOp 0x6A ∧ reservedOp 0x6F ∧ reservedOp 0x70 ∧ reservedOp 0xFF ∧
      (∀ op ∈ legalOps, ¬ reservedOp op) := by
  refine ⟨rfl, ?_⟩
  simp [reservedOp, legalOps]

theorem witness_StepRunsTheDecodedInstruction :
    servedState.req = some { blankRequest with op := 0x30, raw := 0x13 } ∧
      decode { blankRequest with op := 0x30, raw := 0x13 } = .ok (.vmDec 0x13) := ⟨rfl, by decide⟩

theorem witness_WithoutARequestNothingChanges : State.reset.req = none := rfl

/-- The hypotheses of the invariant's statement, at a state whose response is there and legal. -/
theorem witness_StepKeepsEveryResponseLegalForItsRequest :
    Inv servedState ∧ step servedState = .next servedState := by
  refine ⟨fun r hr => ⟨_, rfl, ?_⟩, rfl⟩
  obtain rfl : r = .ok 0x0F3 := by simpa [servedState] using hr.symm
  simp [legalResponse, legalOps, resultWidth, decoderLaw, vocabularyLaw]

theorem witness_EveryRequestIsAnsweredInOneStep :
    (staleState { blankRequest with op := 0x00 }).req = some { blankRequest with op := 0x00 } := rfl

/-- Two requests for LF16.DEC that differ in every port it does not read. -/
theorem witness_ResponseDependsOnTheReadPortsOnly :
    sameOperands { blankRequest with op := 0x00, raw := 0xF0D0 }
      { op := 0x00, raw := 0xF0D0, val := 0x7FC00000, exp := 1, coef := 1, buf := 1, len := 1, mode := 1, flag := 1 } ∧
    sameOperands { blankRequest with op := 0x65, raw := 0x00F0, flag := 7 }
      { blankRequest with op := 0x65, raw := 0xFFF0, val := 1, flag := 7 } := by
  simp [sameOperands, portsRead, portValue, blankRequest]

theorem witness_OperationsAreIdempotentAndLeaveNoTrace : step servedState = .next servedState := rfl

theorem witness_TotalOperationsAlwaysReturnAResult :
    (∀ val, Instr.vmDec 0x13 ≠ .lf16Enc val) ∧ (∀ val exp, Instr.vmDec 0x13 ≠ .lfx16Enc val exp) ∧
      (∀ coef val, Instr.vmDec 0x13 ≠ .dirEnc coef val) ∧ (∀ buf len, Instr.vmDec 0x13 ≠ .dirCoef buf len) := by simp

/-- Each cause of EncodingError at a boundary value, and the request that meets the second part. -/
theorem witness_EncodingErrorIsRaisedExactlyInTheListedCases :
    isNaN 0x7F800001 = true ∧ isInf 0xFF800000 = true ∧ real 0x4BFFE000 = 33538048 ∧ real 0xCC001000 = -33570816 ∧
      real 0x80000001 < 0 ∧ real 0x477FFF80 = 131071 / 2 ∧
      rhaz (dirEncodeExact { m := 10, b := 5, r := 0 } (real 0x454CC400)) = 32768 ∧
      rhaz (dirEncodeExact { m := 10, b := 5, r := 0 } (real 0xC54CD59A)) = -32769 ∧
      answers { blankRequest with op := 0x01, val := 0x4BFFE000 } (.error .encodingError) = true := by decide +kernel

theorem witness_InvalidResponseLengthIsRaisedExactlyByShortBuffers :
    answers { blankRequest with op := 0x22, len := 4 } (.error .invalidResponseLength) = true ∧
      answers { blankRequest with op := 0x22, len := 5 } (.ok 0) = true := by decide

theorem witness_DecoderRoundingIsToNearestTiesToEven :
    |(2 : ℚ) ^ (128 : ℕ) - 2 ^ (103 : ℕ) - 1| < (2 : ℚ) ^ (128 : ℕ) - (2 : ℚ) ^ (103 : ℕ) ∧
      isFinite 0x7F7FFFFF = true ∧ real 0x3F800001 ≠ real (rne32 (1 + pow2 (-24))) ∧
      |real (rne32 (1 + pow2 (-24))) - (1 + pow2 (-24))| = |real 0x3F800001 - (1 + pow2 (-24))| := by
  have h : rne32 (1 + pow2 (-24)) = 0x3F800000 := by decide +kernel
  have h0 : real 0x3F800000 = 1 := by decide +kernel
  have h1 : real 0x3F800001 = 1 + 1 / 2 ^ 23 := by decide +kernel
  have h2 : pow2 (-24) = 1 / 2 ^ 24 := by decide +kernel
  refine ⟨by norm_num [abs_of_pos], by decide, ?_, ?_⟩
  · rw [h, h0, h1]; norm_num
  · rw [h, h0, h1, h2]; norm_num [abs_of_pos, abs_of_neg]

theorem witness_DecoderRoundingOverflowsToInfinity :
    (2 : ℚ) ^ (128 : ℕ) - (2 : ℚ) ^ (103 : ℕ) ≤ |(2 : ℚ) ^ (128 : ℕ) - (2 : ℚ) ^ (103 : ℕ)| ∧
      (2 : ℚ) ^ (128 : ℕ) - (2 : ℚ) ^ (103 : ℕ) ≤ |-(2 : ℚ) ^ (128 : ℕ)| := by
  norm_num [abs_of_pos]

theorem witness_RoundingARepresentableValueIsExact :
    (isFinite 0x7F7FFFFF = true ∧ (0x7F7FFFFF : F32) ≠ 0x80000000#32) ∧
      (isFinite 0x80000001 = true ∧ (0x80000001 : F32) ≠ 0x80000000#32) := by decide

/-- 1023.5 is valid at N = 1 and at no exponent below; -33570812 at N = 15 and at no exponent below. -/
theorem witness_Lf16EncodeFindsTheLeastValidExponent :
    (isFinite 0x447FE000 = true ∧ real 0x447FE000 ≠ 0 ∧ (-16 : Int) ≤ 1 ∧ (1 : Int) ≤ 15 ∧
      lf16Valid (real 0x447FE000) 1 ∧ ∀ k : Int, -16 ≤ k → k < 1 → ¬ lf16Valid (real 0x447FE000) k) ∧
    isFinite 0xCC000FFF = true ∧ real 0xCC000FFF ≠ 0 ∧ (-16 : Int) ≤ 15 ∧ (15 : Int) ≤ 15 ∧
      lf16Valid (real 0xCC000FFF) 15 ∧ ∀ k : Int, -16 ≤ k → k < 15 → ¬ lf16Valid (real 0xCC000FFF) k := by
  have hp : real 0x447FE000 = 2047 / 2 := by decide +kernel
  have hn : real 0xCC000FFF = -33570812 := by decide +kernel
  rw [hp, hn]
  refine ⟨⟨by decide, by norm_num, by decide, by decide, by norm_num [lf16Valid], fun k _ hk hv => ?_⟩,
    by decide, by norm_num, by decide, by decide, by norm_num [lf16Valid], fun k _ hk hv => ?_⟩
  · have h1 : (2 : ℚ) ^ k ≤ 2 ^ (0 : ℤ) := zpow_le_zpow_right₀ (by norm_num) (by omega)
    have h2 := hv.1 (by norm_num)
    norm_num at h1 h2
    linarith
  · have h1 : (2 : ℚ) ^ k ≤ 2 ^ (14 : ℤ) := zpow_le_zpow_right₀ (by norm_num) (by omega)
    have h2 := hv.2 (by norm_num)
    norm_num at h1 h2
    linarith

theorem witness_Lf16EncodeMinimisesTheReconstructionError :
    (isFinite 0x4BFFDFFF = true ∧ real 0x4BFFDFFF = 33538046) ∧ (isFinite 0xCC000FFF = true ∧ real 0xCC000FFF = -33570812) ∧
      rhaz (real 0x42500000 / pow2 (-4)) = 832 := by decide +kernel

theorem witness_Lf16EncodeOfZeroAndOfTinyValues :
    isFinite 0x36FFFFFF = true ∧ real 0x36FFFFFF ≠ 0 ∧ |real 0x36FFFFFF| < (2 : ℚ) ^ (-17 : ℤ) := by
  have h : real 0x36FFFFFF = 16777215 / 2 ^ 41 := by decide +kernel
  rw [h]; exact ⟨by decide, by norm_num, by norm_num [abs_of_pos]⟩

theorem witness_Lf16RoundTripErrorIsAtMostHalfAUnit :
    isFinite 0x4BFFDFFF = true ∧ -33570816 < real 0x4BFFDFFF ∧ real 0x4BFFDFFF < 33538048 ∧
      lf16Valid (real 0x4BFFDFFF) 15 ∧ lf16Valid (real 0xB6800000) (-16) := by
  have h : real 0x4BFFDFFF = 33538046 := by decide +kernel
  have h' : real 0xB6800000 = -(1 / 2 ^ 18) := by decide +kernel
  rw [h, h']
  refine ⟨by decide, by norm_num, by norm_num, by norm_num [lf16Valid], ?_⟩
  norm_num [lf16Valid]

theorem witness_Lfx16DecodeReturnsTheExactValueOrInfinity :
    ((0xFFFF : Half).toNat : ℚ) * (2 : ℚ) ^ (0x70 : Byte).toInt < (2 : ℚ) ^ (128 : ℕ) ∧
      (2 : ℚ) ^ (128 : ℕ) ≤ ((0x0002 : Half).toNat : ℚ) * (2 : ℚ) ^ (0x7F : Byte).toInt := by
  rw [show (0x70 : Byte).toInt = (112 : ℕ) from rfl, show (0x7F : Byte).toInt = (127 : ℕ) from rfl,
    show (0xFFFF : Half).toNat = 65535 from rfl, show (0x0002 : Half).toNat = 2 from rfl]
  norm_num

theorem witness_Lfx16EncodeRoundsToTheNearestWord :
    (isFinite 0x477FFF7F = true ∧ 0 ≤ real 0x477FFF7F ∧ real 0x477FFF7F < 65535.5 * (2 : ℚ) ^ (0x00 : Byte).toInt) ∧
      (isFinite 0x80000000 = true ∧ 0 ≤ real 0x80000000 ∧ real 0x80000000 < 65535.5 * (2 : ℚ) ^ (0x00 : Byte).toInt) := by
  have h : real 0x477FFF7F = 16777087 / 2 ^ 8 := by decide +kernel
  have h' : real 0x80000000 = 0 := by decide +kernel
  rw [h, h', show (0x00 : Byte).toInt = 0 from rfl]
  exact ⟨⟨by decide, by norm_num, by norm_num⟩, by decide, by norm_num, by norm_num⟩

theorem witness_Lfx16WordsRoundTrip :
    ((0xFFFF : Half).toNat : ℚ) * (2 : ℚ) ^ (0x70 : Byte).toInt < (2 : ℚ) ^ (128 : ℕ) :=
  witness_Lfx16DecodeReturnsTheExactValueOrInfinity.1

theorem witness_ParsedExponentsNeverOverflowTheScaler :
    (0x10 : Byte).extractLsb' 5 2 = 0#2 ∧ (0x8F : Byte).extractLsb' 5 2 = 0#2 := by decide

theorem witness_DirDecodeReturnsTheCorrectlyRoundedQuotient :
    ({ m := 0xFFF6, b := 5, r := 0 } : Coefficients).m ≠ 0#16 ∧
      dirDecodeExact { m := 0xFFF6, b := 5, r := 0 } 5 = 0 := by decide +kernel

theorem witness_DirDecodeResultsAreZeroOrOfModerateSize :
    ({ m := 0x8000, b := 0x8000, r := 0xF8 } : Coefficients).m ≠ 0#16 := by decide

theorem witness_DirDecodeWithZeroSlopeReturnsAnOpenValue :
    ({ m := 0, b := 5, r := 0 } : Coefficients).m = 0#16 := by decide

theorem witness_OutOfTableExponentsActAsScaleOne :
    (({ m := 10, b := 5, r := 0xF7 } : Coefficients).r.toInt < -8 ∧
      8 < ({ m := 10, b := 5, r := 9 } : Coefficients).r.toInt) ∧
      5 ≤ (5 : Byte).toNat ∧ ({ m := 10, b := 5, r := 9 } : Coefficients).m ≠ 0#16 := by decide

theorem witness_DirEncodeRoundsTheScaledValueLast :
    isFinite 0x454CC333 = true ∧ -32768.5 < dirEncodeValue { m := 10, b := 5, r := 0 } (real 0x454CC333) ∧
      dirEncodeValue { m := 10, b := 5, r := 0 } (real 0x454CC333) < 32767.5 := by
  have h : real 0x454CC333 = 13419315 / 2 ^ 12 := by decide +kernel
  rw [h, dirEncodeValue, scaleOf, show (0 : Byte).toInt = 0 from rfl, show (10 : BitVec 16).toInt = 10 from rfl,
    show (5 : BitVec 16).toInt = 5 from rfl]
  norm_num [show isFinite 0x454CC333 = true from by decide]

theorem witness_DirDirectionsAreInverseBeforeRounding :
    ({ m := 0xFFFF, b := 5, r := 0xF8 } : Coefficients).m ≠ 0#16 ∧
      -8 ≤ ({ m := 0xFFFF, b := 5, r := 0xF8 } : Coefficients).r.toInt ∧
      ({ m := 0xFFFF, b := 5, r := 8 } : Coefficients).r.toInt ≤ 8 := by decide

theorem witness_CoefficientsAreReadLittleEndian : 5 ≤ (5 : Byte).toNat ∧ 5 ≤ (255 : Byte).toNat := by decide

theorem witness_ParsedCoefficientsEqualTheBuffer : 5 ≤ (5 : Byte).toNat := by decide

theorem witness_BufferReadsAreLittleEndianBytes : 4 + 1 ≤ 5 ∧ 3 + 2 ≤ 5 := by decide

theorem witness_VoutModeBytesParseFieldByField :
    (0x1F : Byte).extractLsb' 5 2 = 0#2 ∧ (0x3F : Byte).extractLsb' 5 2 = 1#2 ∧ (0x5F : Byte).getLsbD 6 = true ∧
      (0x60 : Byte).getLsbD 6 = true := by decide

theorem witness_ModeRecordsEncodeFieldByField :
    (staleState { blankRequest with op := 0x31, mode := 0x1FF }).req =
        some { blankRequest with op := 0x31, mode := 0x1FF } ∧
      (0x1FF : BitVec 11).getLsbD 9 = false ∧ (0x2FF : BitVec 11).getLsbD 9 = true := by decide

theorem witness_VoutModeRoundTripIsExactOrDropsReservedBits :
    (0x40 : Byte).getLsbD 6 = true ∧ (0x5F : Byte).getLsbD 6 = true ∧ (0x3F : Byte).getLsbD 6 = false := by decide

theorem witness_ProducibleModeRecordsSurviveReencoding :
    ({ relative := true, variant := .fixedExponent 0xF0 } : ModeSelection).wellFormed = true ∧
      ({ relative := false, variant := .vidCode 31 } : ModeSelection).wellFormed = true := by decide

theorem witness_RelativeFlagIsCarriedAndChangesNothingElse :
    ({ blankRequest with op := 0x30 } : Request).op ≠ 0x31#8 ∧
      ({ blankRequest with op := 0x32 } : Request).op ≠ 0x31#8 := by decide

theorem witness_FullByteRegistersDecodeToTheRawByte :
    ({ blankRequest with op := 0x40, raw := 0x12C3 } : Request).raw.extractLsb' 0 8 = 0xC3#8 ∧
      ({ blankRequest with op := 0x40, raw := 0x12C3 } : Request).op = 0x40#8 ∧
      ({ blankRequest with op := 0x42 } : Request).op = 0x42#8 ∧
      ({ blankRequest with op := 0x43 } : Request).op = 0x43#8 ∧
      ({ blankRequest with op := 0x44 } : Request).op = 0x44#8 ∧
      ({ blankRequest with op := 0x47 } : Request).op = 0x47#8 := by decide

theorem witness_WordRegisterDecodesToTheRawWord : ({ blankRequest with op := 0x41 } : Request).op = 0x41#8 := by decide

theorem witness_StatusDecodersKeepExactlyTheVocabularyBits : 0 < 16 ∧ 15 < 16 := by decide

theorem witness_StatusBitsReturnsExactlyTheVocabularyBits : 0 < 16 ∧ 15 < 16 := by decide

theorem witness_MasksHaveTheFlagCountsOfTheSource : statusWidth .temp ≤ 8 ∧ statusWidth .word ≤ 16 := by decide

end Sys2Proof.Tests
end

section
/-! PROOF of the statement on the relative flag (spec/10_state.md R31). The flag is the top bit of the packed record and
of the encoded byte, so both directions are one fact about a bit in front of other bits. The rest is that a response
depends on the decoded instruction only, and that only `op` 0x31 decodes the mode port. -/

namespace Sys2Proof

/-! ## A flag, a field and a parameter side by side -/

/-- The flag is the top bit. -/
theorem flagBits_getLsbD_top {v w : Nat} (r : Bool) (n : BitVec v) (e : BitVec w) :
    (BitVec.ofBool r ++ n ++ e).getLsbD (w + v) = r := by
  rw [BitVec.getLsbD_append, if_neg (by omega), Nat.add_sub_cancel_left, BitVec.getLsbD_append, if_neg (by omega),
    Nat.sub_self, BitVec.getLsbD_ofBool, decide_eq_true rfl, Bool.true_and]

/-- Another flag flips the top bit alone. -/
theorem flagBits_not {v w : Nat} (r : Bool) (n : BitVec v) (e : BitVec w) :
    BitVec.ofBool (!r) ++ n ++ e = (BitVec.ofBool r ++ n ++ e) ^^^ (1#1 ++ 0#v ++ 0#w) := by
  have hflag : BitVec.ofBool (!r) = BitVec.ofBool r ^^^ 1#1 := by cases r <;> rfl
  rw [BitVec.xor_append, BitVec.xor_append, BitVec.xor_zero, BitVec.xor_zero, hflag]

/-- Bit 10 of a packed ModeSelection is its flag (R69, D17). -/
@[simp] theorem packMode_getLsbD_relative (x : ModeSelection) : (packMode x).getLsbD 10 = x.relative := by
  obtain ⟨r, variant⟩ := x
  cases variant <;> exact modeBits_relative r _ _

/-- Another flag flips bit 10 of the packed ModeSelection alone. -/
theorem packMode_not_relative (x : ModeSelection) :
    packMode { x with relative := !x.relative } = packMode x ^^^ 0x400#11 := by
  obtain ⟨r, variant⟩ := x
  cases variant <;> exact flagBits_not r _ _

/-! ## The mode port and the decoder -/

/-- No operation but VM.ENC reads the mode port (R27, R60): the port reaches the decoder in the arm of
`op` 0x31 alone. -/
theorem decode_mode_irrelevant (q : Request) (m : BitVec 11) (hop : q.op ≠ 0x31#8) :
    decode { q with mode := m } = decode q := by
  have hop' : q.op.toNat ≠ 0x31 := fun h => hop (BitVec.eq_of_toNat_eq h)
  dsimp only [decode, rawByte]
  split
  case h_9 hvmEnc => exact absurd hvmEnc hop'
  all_goals rfl

namespace Machine

/-! ## The parser and the re-encoder -/

@[simp] theorem vmParse_relative (x : Byte) : (vmParse x).relative = x.getLsbD 7 := rfl

/-- Flipping bit 7 of a byte flips the flag of the parsed record and leaves the variant and its parameter. -/
theorem vmParse_xor_flag (x : Byte) :
    vmParse (x ^^^ 0x80#8) = { vmParse x with relative := !(vmParse x).relative } := by
  have hsel : (x ^^^ 0x80#8).extractLsb' 5 2 = x.extractLsb' 5 2 := by
    rw [BitVec.extractLsb'_xor, show (0x80#8).extractLsb' 5 2 = 0#2 by decide, BitVec.xor_zero]
  have hparam : (x ^^^ 0x80#8).extractLsb' 0 5 = x.extractLsb' 0 5 := by
    rw [BitVec.extractLsb'_xor, show (0x80#8).extractLsb' 0 5 = 0#5 by decide, BitVec.xor_zero]
  have hflag : (x ^^^ 0x80#8).getLsbD 7 = !x.getLsbD 7 := by
    rw [BitVec.getLsbD_xor, show (0x80#8).getLsbD 7 = true by decide, Bool.xor_true]
  simp only [vmParse, hsel, hparam, hflag]

/-- Bit 7 of a re-encoded byte is the flag of its record (R171). -/
@[simp] theorem vmUnparse_getLsbD_relative (x : ModeSelection) : (vmUnparse x).getLsbD 7 = x.relative := by
  obtain ⟨r, variant⟩ := x
  cases variant <;> exact flagBits_getLsbD_top r _ _

/-- Another flag flips bit 7 of the re-encoded byte alone. -/
theorem vmUnparse_not_relative (x : ModeSelection) :
    vmUnparse { x with relative := !x.relative } = vmUnparse x ^^^ 0x80#8 := by
  obtain ⟨r, variant⟩ := x
  cases variant <;> exact flagBits_not r _ _

/-- VM.DEC answers the packed record of its byte. -/
theorem exec_vmDec (x : Byte) (s : State) :
    exec (.vmDec x) s = .next (s.answer (.ok ((packMode (vmParse x)).setWidth 40))) :=
  respond_spec _ s

/-- VM.ENC answers the re-encoded byte of its record. -/
theorem exec_vmEnc (x : ModeSelection) (s : State) :
    exec (.vmEnc x) s = .next (s.answer (.ok ((vmUnparse x).setWidth 40))) :=
  respond_spec _ s

/-! ## What a response depends on -/

/-- Every instruction answers, with a response that its operands alone determine: no state changes it. -/
theorem exec_answers (i : Instr) : ∃ r : Response, ∀ s : State, exec i s = .next (s.answer r) := by
  cases i <;> exact ⟨_, fun _ => rfl⟩

theorem step_present_of_decode_ok {q : Request} {i : Instr} (h : decode q = .ok i) (s : State) :
    step (s.present q) = exec i (s.present q) := by
  simp only [step, fetch, State.present_req, h]

theorem step_present_of_decode_error {q : Request} {e : DecodeError} (h : decode q = .error e) (s : State) :
    step (s.present q) = rejectRequest e (s.present q) := by
  simp only [step, fetch, State.present_req, h]

/-- What a request decodes to fixes the response, whatever else its ports and the state show. -/
theorem step_present_answers (d : Except DecodeError Instr) :
    ∃ r : Response, ∀ (q : Request) (s : State), decode q = d →
      step (s.present q) = .next ((s.present q).answer r) := by
  cases d with
  | ok i =>
    obtain ⟨r, hr⟩ := exec_answers i
    exact ⟨r, fun q s h => (step_present_of_decode_ok h s).trans (hr _)⟩
  | error e =>
    refine ⟨.error .illegalOp, fun q s h => ?_⟩
    rw [step_present_of_decode_error h, rejectRequest_spec, raiseError_spec]

/-- Settles O43: the flag is the top bit on both sides, and apart from `op` 0x31 the decoder, which fixes the response,
does not see the mode port. -/
theorem relativeFlagIsCarriedAndChangesNothingElse :
    Obligations.RelativeFlagIsCarriedAndChangesNothingElse := by
  refine ⟨fun x s => ⟨packMode (vmParse x), exec_vmDec x s, ?_, ?_⟩,
    fun x s => ⟨vmUnparse x, exec_vmEnc x s, vmUnparse_getLsbD_relative x, ?_⟩, fun s q m hop => ?_⟩
  · rw [packMode_getLsbD_relative, vmParse_relative]
  · rw [← packMode_not_relative, ← vmParse_xor_flag]
    exact exec_vmDec _ s
  · rw [← vmUnparse_not_relative]
    exact exec_vmEnc _ s
  · obtain ⟨r, hr⟩ := step_present_answers (decode q)
    exact ⟨r, hr q s rfl, hr _ s (decode_mode_irrelevant q m hop)⟩

end Machine
end Sys2Proof
end

section
/-! PROOF of the statement on reads of the coefficients buffer (spec/20_memory.md R42). One rule gives the value of a byte
of the buffer, one the value of two bytes side by side; both read widths follow. -/

namespace Sys2Proof.Machine

/-- `byte(i)` of the buffer as a number: the digit of weight 256 ^ i of the buffer's value (R42). -/
@[simp] theorem bufByte_toNat (buf : BitVec 40) (i : Nat) :
    (bufByte buf i).toNat = buf.toNat / 2 ^ (8 * i) % 256 := by
  rw [bufByte, BitVec.extractLsb'_toNat, Nat.shiftRight_eq_div_pow]

/-- A high byte in front of a low byte counts 256 times. -/
theorem byte_append_toNat (hi lo : Byte) : (hi ++ lo).toNat = lo.toNat + 256 * hi.toNat := by
  rw [BitVec.toNat_append, ← Nat.shiftLeft_add_eq_or_of_lt lo.isLt, Nat.shiftLeft_eq, Nat.add_comm, Nat.mul_comm]

@[simp] theorem memRead1_toNat (buf : BitVec 40) (a : Nat) :
    (memRead1 buf a).toNat = buf.toNat / 2 ^ (8 * a) % 256 :=
  bufByte_toNat buf a

/-- A two-byte read is little-endian: the byte at the higher index is the more significant one (R42). -/
@[simp] theorem memRead2_toNat (buf : BitVec 40) (a : Nat) :
    (memRead2 buf a).toNat =
      buf.toNat / 2 ^ (8 * a) % 256 + 256 * (buf.toNat / 2 ^ (8 * (a + 1)) % 256) := by
  rw [memRead2, byte_append_toNat, bufByte_toNat, bufByte_toNat]

/-- Settles O38: the two reads have these values at every index, so also at those within the five bytes. -/
theorem bufferReadsAreLittleEndianBytes : Obligations.BufferReadsAreLittleEndianBytes := fun buf a =>
  ⟨fun _ => memRead1_toNat buf a, fun _ => memRead2_toNat buf a⟩

end Sys2Proof.Machine
end

section
/-! PROOF of the statement on exponents outside the table (spec/42_directlinear.md R147). The scale is 1 there, as it is
for R = 0, and R enters the exact values of both directions through the scale alone. The parser is the identity on every
buffer that is long enough. -/

namespace Sys2Proof.Machine

/-! ## The scale and the exact values -/

/-- The scale falls back to 1 outside its table (R141, R147). -/
theorem dirScale_of_outside {e : Int} (h : e < -8 ∨ 8 < e) : dirScale e = 1 :=
  if_neg fun ⟨hmin, hmax⟩ => h.elim (not_lt_of_ge hmin) (not_lt_of_ge hmax)

@[simp] theorem dirScale_zero : dirScale 0 = 1 := by
  rw [dirScale, if_pos ⟨by decide, by decide⟩, pow10_eq_zpow, zpow_zero]

/-- An exponent outside the table gives the exact encoded value of R = 0. -/
theorem dirEncodeExact_of_outside {c : Coefficients} (h : c.r.toInt < -8 ∨ 8 < c.r.toInt) (v : Rat) :
    dirEncodeExact c v = dirEncodeExact { c with r := 0#8 } v := by
  simp only [dirEncodeExact, coefM, coefB, coefR, BitVec.toInt_zero, dirScale_of_outside h, dirScale_zero]

/-- An exponent outside the table gives the exact decoded value of R = 0: its negation is outside as well. -/
theorem dirDecodeExact_of_outside {c : Coefficients} (h : c.r.toInt < -8 ∨ 8 < c.r.toInt) (raw : Half) :
    dirDecodeExact c raw = dirDecodeExact { c with r := 0#8 } raw := by
  have hneg : -c.r.toInt < -8 ∨ 8 < -c.r.toInt := by omega
  simp only [dirDecodeExact, coefM, coefB, coefR, BitVec.toInt_zero, neg_zero, dirScale_of_outside hneg,
    dirScale_zero]

/-! ## The three operations -/

/-- DIR.ENC sees the coefficients through the exact value alone. -/
theorem dirEncode_congr {c c' : Coefficients} (h : ∀ v, dirEncodeExact c v = dirEncodeExact c' v) (val : F32) :
    dirEncode c val = dirEncode c' val := by
  simp only [dirEncode, h]

/-- With m not 0 DIR.DEC is the rounded exact value (R142). -/
theorem dirDecode_of_slope {c : Coefficients} (hm : c.m ≠ 0#16) (raw : Half) :
    dirDecode c raw = rne32 (dirDecodeExact c raw) := if_neg hm

/-- A two-byte read is a field of the buffer. -/
theorem memRead2_eq_extractLsb' (buf : BitVec 40) (a : Nat) : memRead2 buf a = buf.extractLsb' (8 * a) 16 := by
  rw [memRead2, bufByte, bufByte, BitVec.extractLsb'_append_extractLsb'_eq_extractLsb' (by omega)]

/-- The parser returns every buffer that is long enough as it is (R144). -/
theorem dirParse_of_len {len : Byte} (h : 5 ≤ len.toNat) (buf : BitVec 40) : dirParse buf len = .ok buf := by
  have hfields : { m := memRead2 buf 0, b := memRead2 buf 2, r := memRead1 buf 4 } = unpackCoef buf := by
    simp only [memRead2_eq_extractLsb', memRead1, bufByte, unpackCoef]
  rw [dirParse, hfields, packCoef_unpackCoef]
  exact if_neg (not_lt_of_ge h)

/-- DIR.DEC answers its result with status OK. -/
theorem exec_dirDec (c : Coefficients) (raw : Half) (s : State) :
    exec (.dirDec c raw) s = .next (s.answer (.ok ((dirDecode c raw).setWidth 40))) :=
  respond_spec _ s

/-- DIR.ENC delivers its word or its error. -/
theorem exec_dirEnc (c : Coefficients) (val : F32) (s : State) :
    exec (.dirEnc c val) s = deliver (dirEncode c val) s := rfl

/-- DIR.COEF answers the buffer itself from length 5 on. -/
theorem exec_dirCoef_of_len {len : Byte} (h : 5 ≤ len.toNat) (buf : BitVec 40) (s : State) :
    exec (.dirCoef buf len) s = .next (s.answer (.ok buf)) := by
  have hexec : exec (.dirCoef buf len) s = deliver (dirParse buf len) s := rfl
  rw [hexec, dirParse_of_len h, deliver_ok, respond_spec, BitVec.setWidth_eq]

/-- Settles O33: the parser checks the length only, and outside the table both directions have the exact values of
R = 0. -/
theorem outOfTableExponentsActAsScaleOne : Obligations.OutOfTableExponentsActAsScaleOne := by
  refine fun c s hr => ⟨fun len hlen => exec_dirCoef_of_len hlen _ s, fun val => ?_,
    fun raw => ⟨_, exec_dirDec c raw s, fun hm => ?_⟩⟩
  · rw [exec_dirEnc, exec_dirEnc, dirEncode_congr (dirEncodeExact_of_outside hr)]
  · rw [dirDecode_of_slope hm, dirDecodeExact_of_outside hr, ← dirDecode_of_slope (c := { c with r := 0#8 }) hm]
    exact exec_dirDec _ raw s

end Sys2Proof.Machine
end

section
/-! PROOF of the statement on VOUT_MODE's round trip (spec/43_vout_mode.md R172). A byte is its flag, its selector and its
five parameter bits side by side. Parsing and re-encoding returns the same three fields, except that the parameter bits
come back as zero where bit 6 is set; `AND 0xE0` clears exactly these bits. -/

namespace Sys2Proof.Machine

/-! ## A VOUT_MODE byte as three fields -/

/-- A byte is its relative flag, its selector and its parameter side by side (R170). -/
theorem modeByte_eq_fields (x : Byte) :
    BitVec.ofBool (x.getLsbD 7) ++ x.extractLsb' 5 2 ++ x.extractLsb' 0 5 = x := by
  have hflag : BitVec.ofBool (x.getLsbD 7) = x.extractLsb' 7 1 := by
    rw [← BitVec.setWidth_eq (x.extractLsb' 7 1), BitVec.setWidth_one, BitVec.getLsbD_extractLsb']
    rfl
  rw [hflag, BitVec.extractLsb'_append_extractLsb'_eq_extractLsb' (start₁ := 5) (len₁ := 2) rfl,
    BitVec.extractLsb'_append_extractLsb'_eq_extractLsb' (start₁ := 0) (len₁ := 5) rfl]
  exact BitVec.extractLsb'_eq_self

/-- `AND 0xE0` keeps the flag and the selector and clears the parameter. -/
theorem modeByte_and_E0 (x : Byte) :
    x &&& 0xE0#8 = BitVec.ofBool (x.getLsbD 7) ++ x.extractLsb' 5 2 ++ 0#5 := by
  have hmask : 0xE0#8 = BitVec.allOnes 1 ++ BitVec.allOnes 2 ++ 0#5 := by decide
  conv_lhs => rw [← modeByte_eq_fields x, hmask]
  rw [BitVec.and_append, BitVec.and_append, BitVec.and_allOnes, BitVec.and_allOnes, BitVec.and_zero]

/-- `AND 0xE0` is the identity exactly on the bytes whose parameter is zero. -/
theorem modeByte_and_E0_eq_self_iff (x : Byte) : x &&& 0xE0#8 = x ↔ x.extractLsb' 0 5 = 0#5 := by
  rw [modeByte_and_E0]
  conv_lhs => rhs; rw [← modeByte_eq_fields x]
  rw [BitVec.append_right_inj, eq_comm]

/-- Bit 6 is the high bit of the selector. -/
theorem modeByte_getLsbD_6 (x : Byte) : x.getLsbD 6 = (x.extractLsb' 5 2).getLsbD 1 := by
  rw [BitVec.getLsbD_extractLsb']
  rfl

/-! ## Parse, then re-encode -/

/-- The low five bits of a sign-extended parameter are the parameter. -/
theorem extractLsb'_signExtend_param (p : BitVec 5) : (p.signExtend 8).extractLsb' 0 5 = p := by
  rw [BitVec.signExtend_eq_append_of_le (by omega)]
  exact BitVec.extractLsb'_append_eq_right

/-- The low five bits of a zero-extended parameter are the parameter. -/
theorem extractLsb'_setWidth_param (p : BitVec 5) : (p.setWidth 8).extractLsb' 0 5 = p := by
  rw [BitVec.extractLsb'_setWidth_of_le (by omega), BitVec.extractLsb'_eq_self]

/-- Re-encoding a parsed byte returns its flag and its selector, and its parameter where the variant has one: where the
high bit of the selector is clear. -/
theorem vmUnparse_vmParse (x : Byte) :
    vmUnparse (vmParse x) =
      BitVec.ofBool (x.getLsbD 7) ++ x.extractLsb' 5 2 ++
        if (x.extractLsb' 5 2).getLsbD 1 then 0#5 else x.extractLsb' 0 5 := by
  have selector_cases : ∀ n : BitVec 2, n = 0#2 ∨ n = 1#2 ∨ n = 2#2 ∨ n = 3#2 := by decide
  obtain hsel | hsel | hsel | hsel := selector_cases (x.extractLsb' 5 2)
  case inl => simp [vmParse, vmUnparse, hsel, extractLsb'_signExtend_param]
  case inr.inl => simp [vmParse, vmUnparse, hsel, extractLsb'_setWidth_param]
  all_goals simp [vmParse, vmUnparse, hsel]

/-- The byte comes back, with the reserved bits dropped where bit 6 is set (R172). -/
theorem vmUnparse_vmParse_eq_ite (x : Byte) :
    vmUnparse (vmParse x) = if x.getLsbD 6 then x &&& 0xE0#8 else x := by
  rw [vmUnparse_vmParse, ← modeByte_getLsbD_6]
  split
  · exact (modeByte_and_E0 x).symm
  · exact modeByte_eq_fields x

/-- Settles O41: the record VM.DEC answers unpacks to the parsed one, so VM.ENC answers the re-encoded parse. -/
theorem voutModeRoundTripIsExactOrDropsReservedBits :
    Obligations.VoutModeRoundTripIsExactOrDropsReservedBits := by
  refine fun x s => ⟨packMode (vmParse x), exec_vmDec x s, ?_, fun _ => modeByte_and_E0_eq_self_iff x⟩
  rw [unpackMode_packMode, ← vmUnparse_vmParse_eq_ite]
  exact exec_vmEnc _ s

end Sys2Proof.Machine
end

section
/-! PROOF of the statements on the status decoders (spec/44_status.md R193 to R202, R207). A register's mask has no bit
beyond the register's width, so reading a byte register from `raw[7:0]` alone loses nothing that the mask keeps: each of
the ten decoders answers the raw port AND its mask. A mask of ones returns the register's bits themselves. -/

namespace Sys2Proof.Machine

open Safety

/-! ## The masks -/

/-- No vocabulary bit lies at or above the register's width (R192). -/
theorem statusMask_getLsbD_of_width_le {r : StatusReg} {k : Nat} (hk : statusWidth r ≤ k) :
    (statusMask r).getLsbD k = false := by
  have hbyte (m : Byte) (h8 : 8 ≤ k) : (m.setWidth 16).getLsbD k = false := by
    rw [BitVec.getLsbD_setWidth, BitVec.getLsbD_of_ge m k h8, Bool.and_false]
  cases r
  case word => exact BitVec.getLsbD_of_ge _ k hk
  case temp => exact hbyte Config.maskTemp hk
  case cml => exact hbyte Config.maskCml hk
  case fans12 => exact hbyte Config.maskFans12 hk
  case fans34 => exact hbyte Config.maskFans34 hk
  all_goals exact hbyte 0xFF#8 hk

/-! ## The masked value -/

@[simp] theorem statusValue_getLsbD (r : StatusReg) (raw : Half) (k : Nat) :
    (statusValue r raw).getLsbD k = (raw.getLsbD k && (statusMask r).getLsbD k) :=
  BitVec.getLsbD_and

/-- The masked value depends on the bits within the register's width only (R63). -/
theorem statusValue_truncated (r : StatusReg) (raw : Half) :
    statusValue r ((raw.setWidth (statusWidth r)).setWidth 16) = statusValue r raw := by
  refine BitVec.eq_of_getLsbD_eq fun k hk => ?_
  rw [statusValue_getLsbD, statusValue_getLsbD]
  by_cases hwidth : k < statusWidth r
  · rw [BitVec.getLsbD_setWidth, BitVec.getLsbD_setWidth, decide_eq_true hk, decide_eq_true hwidth, Bool.true_and,
      Bool.true_and]
  · rw [statusMask_getLsbD_of_width_le (not_lt.mp hwidth), Bool.and_false, Bool.and_false]

/-- A byte mask of ones keeps the low byte (R193). -/
theorem statusValue_of_byteMask {r : StatusReg} (hmask : statusMask r = 0xFF#16) (raw : Half) :
    statusValue r raw = (raw.setWidth 8).setWidth 16 := by
  have hones : 0xFF#16 = (BitVec.allOnes 8).setWidth 16 := by decide
  refine BitVec.eq_of_getLsbD_eq fun k hk => ?_
  rw [statusValue_getLsbD, hmask, hones, BitVec.getLsbD_setWidth, BitVec.getLsbD_setWidth, BitVec.getLsbD_setWidth,
    BitVec.getLsbD_allOnes, Bool.and_left_comm, Bool.and_comm (raw.getLsbD k)]

/-- All 16 bits of the word register are vocabulary (R194). -/
theorem statusValue_word (raw : Half) : statusValue .word raw = raw := BitVec.and_allOnes

/-! ## The ten decoders -/

/-- The `op` of ST.DEC.r decodes to ST.DEC.r of the raw port (R61, R63). -/
theorem decode_stDec {r : StatusReg} {q : Request} (hop : q.op = opcode (stDec r q.raw)) :
    decode q = .ok (stDec r q.raw) := by
  have hraw : rawByte q = q.raw.setWidth 8 := (BitVec.setWidth_eq_extractLsb' (by omega)).symm
  cases r <;> simp only [stDec, opcode] at hop <;> simp [decode, hop, hraw, stDec]

/-- ST.DEC.r answers the raw port AND the register's mask (R190). -/
theorem exec_stDec (r : StatusReg) (raw : Half) (s : State) :
    exec (stDec r raw) s = .next (s.answer (.ok ((statusValue r raw).setWidth 40))) := by
  have hread : exec (stDec r raw) s =
      respond (statusDecode r ((raw.setWidth (statusWidth r)).setWidth 16)) s := by cases r <;> rfl
  rw [hread, statusDecode, statusValue_truncated, respond_spec]

/-- A decoder with a byte mask of ones answers the low byte itself. -/
theorem exec_stDec_of_byteMask {r : StatusReg} (hmask : statusMask r = 0xFF#16) (raw : Half) (s : State) :
    exec (stDec r raw) s = .next (s.answer (.ok ((raw.setWidth 8).setWidth 40))) := by
  rw [exec_stDec, statusValue_of_byteMask hmask, BitVec.setWidth_setWidth (u := 8) (v := 16) (by omega)]

/-- ST.DEC.WORD answers the raw word itself. -/
theorem exec_stDec_word (raw : Half) (s : State) :
    exec (stDec .word raw) s = .next (s.answer (.ok (raw.setWidth 40))) := by
  rw [exec_stDec, statusValue_word]

/-- Settles O46: every decoder answers its masked value, whose bits are these. -/
theorem statusDecodersKeepExactlyTheVocabularyBits :
    Obligations.StatusDecodersKeepExactlyTheVocabularyBits := fun r raw s =>
  ⟨statusValue r raw, exec_stDec r raw s, fun k _ => statusValue_getLsbD r raw k⟩

/-- Settles O44: each of the five registers has a byte mask of ones. -/
theorem fullByteRegistersDecodeToTheRawByte : Obligations.FullByteRegistersDecodeToTheRawByte := by
  intro s q x hx
  obtain rfl : q.raw.setWidth 8 = x := (BitVec.setWidth_eq_extractLsb' (by omega)).trans hx
  have answers_low_byte (r : StatusReg) (hmask : statusMask r = 0xFF#16) (hop : q.op = opcode (stDec r q.raw)) :
      decode q = .ok (stDec r q.raw) ∧
        exec (stDec r q.raw) s = .next (s.answer (.ok ((q.raw.setWidth 8).setWidth 40))) :=
    ⟨decode_stDec hop, exec_stDec_of_byteMask hmask q.raw s⟩
  exact ⟨answers_low_byte .byte rfl, answers_low_byte .vout rfl, answers_low_byte .iout rfl,
    answers_low_byte .input rfl, answers_low_byte .mfr rfl⟩

/-- Settles O45: the word's mask is all ones, and the low byte of the word is the raw port of the byte register. -/
theorem wordRegisterDecodesToTheRawWord : Obligations.WordRegisterDecodesToTheRawWord := by
  refine ⟨fun r => ?_, fun q hop => decode_stDec (r := .word) hop, fun x s => ⟨exec_stDec_word x s, ?_⟩⟩
  · cases r <;> decide
  · have hlow : x.extractLsb' 0 8 = x.setWidth 8 := (BitVec.setWidth_eq_extractLsb' (by omega)).symm
    rw [BitVec.extractLsb'_setWidth_of_le (by omega), hlow]
    exact exec_stDec_of_byteMask (r := .byte) rfl x s

end Sys2Proof.Machine
end

section
/-! PROOF of the statements on errors (spec/60_exceptions.md R232, R233). Only the three encoders and the coefficients
parser end in `deliver`, so an error of an instruction is an error of one of these four functions. Each raises one kind
of error: the parser by its length check, the encoders on a NaN or an infinity and where rounding leaves the range of
the format, which it does from half a unit beyond the ends on, since `rhaz` rounds half away from zero. -/

namespace Sys2Proof.Machine

open Safety

/-! ## Where an error comes from -/

/-- `respond` raises no error. -/
theorem respond_ne_error {w : Nat} (v : BitVec w) (s : State) (e : ErrorKind) :
    respond v s ≠ .next (s.answer (.error e)) := by
  simp [respond_spec, State.answer]

/-- `deliver` raises exactly the error it is given. -/
theorem deliver_eq_error_iff {w : Nat} (r : Except ErrorKind (BitVec w)) (s : State) (e : ErrorKind) :
    deliver r s = .next (s.answer (.error e)) ↔ r = .error e := by
  cases r with
  | ok v => simpa using respond_ne_error v s e
  | error e' => simp [raiseError_spec, State.answer]

/-- An instruction raises an error exactly when it is one of the four that R237 does not call total and its function
gives that error. -/
theorem exec_eq_error_iff (i : Instr) (s : State) (e : ErrorKind) :
    exec i s = .next (s.answer (.error e)) ↔
      (∃ val, i = .lf16Enc val ∧ lf16Encode val = .error e) ∨
      (∃ val exp, i = .lfx16Enc val exp ∧ lfx16Encode val exp = .error e) ∨
      (∃ coef val, i = .dirEnc coef val ∧ dirEncode coef val = .error e) ∨
      (∃ buf len, i = .dirCoef buf len ∧ dirParse buf len = .error e) := by
  cases i with
  | lf16Enc val => exact (deliver_eq_error_iff (lf16Encode val) s e).trans (by simp)
  | lfx16Enc val exp => exact (deliver_eq_error_iff (lfx16Encode val exp) s e).trans (by simp)
  | dirEnc coef val => exact (deliver_eq_error_iff (dirEncode coef val) s e).trans (by simp)
  | dirCoef buf len => exact (deliver_eq_error_iff (dirParse buf len) s e).trans (by simp)
  | _ => exact iff_of_false (respond_ne_error _ s e) (by simp)

/-- The step of a request that decodes is the execution of its instruction. -/
theorem step_of_decode_ok {s : State} {q : Request} {i : Instr} (hreq : s.req = some q) (hi : decode q = .ok i) :
    step s = exec i s := by
  simp only [step, fetch, hreq, hi]

/-- The step of a request that does not decode raises IllegalOp (R234). -/
theorem step_of_decode_error {s : State} {q : Request} {d : DecodeError} (hreq : s.req = some q)
    (hd : decode q = .error d) : step s = .next (s.answer (.error .illegalOp)) := by
  simp only [step, fetch, hreq, hd, rejectRequest_spec, raiseError_spec]

/-- A step that raises an error other than IllegalOp executes an instruction that raises it. -/
theorem step_eq_error_iff {s : State} {q : Request} {e : ErrorKind} (hreq : s.req = some q) (he : e ≠ .illegalOp) :
    step s = .next (s.answer (.error e)) ↔
      ∃ i, decode q = .ok i ∧ exec i s = .next (s.answer (.error e)) := by
  cases hd : decode q with
  | ok i => simp [step_of_decode_ok hreq hd]
  | error d => simp [step_of_decode_error hreq hd, State.answer, he.symm]

/-! ## The coefficients parser -/

/-- The parser raises InvalidResponseLength alone, and only for its length (R144). -/
theorem dirParse_eq_error_iff (buf : BitVec 40) (len : Byte) (e : ErrorKind) :
    dirParse buf len = .error e ↔ e = .invalidResponseLength ∧ len.toNat < 5 := by
  by_cases hlen : len.toNat < 5
  · have hshort : dirParse buf len = .error .invalidResponseLength := if_pos hlen
    simp [hshort, hlen, eq_comm]
  · simp [dirParse_of_len (not_lt.mp hlen), hlen]

/-- A decoded instruction has the `op` of its request (R61). -/
theorem opcode_of_decode {q : Request} {i : Instr} (h : decode q = .ok i) : opcode i = q.op := by
  unfold decode at h
  split at h
  case h_40 => cases h
  all_goals
    cases h
    exact BitVec.eq_of_toNat_eq (Eq.symm ‹q.op.toNat = _›)

/-- DIR.COEF is decoded from `op` 0x22 alone, with the request's own buffer and length. -/
theorem decode_eq_dirCoef_iff (q : Request) (buf : BitVec 40) (len : Byte) :
    decode q = .ok (.dirCoef buf len) ↔ q.op = 0x22#8 ∧ q.buf = buf ∧ q.len = len := by
  have hdecode (hop : q.op = 0x22#8) : decode q = .ok (.dirCoef q.buf q.len) := by simp [decode, hop]
  constructor
  · intro h
    have hop : q.op = 0x22#8 := (opcode_of_decode h).symm
    simpa [hdecode hop, hop] using h
  · rintro ⟨hop, rfl, rfl⟩
    exact hdecode hop

/-! ## Where rounding half away from zero leaves a range -/

/-- `rhaz` is odd (R12). -/
theorem rhaz_neg (q : ℚ) : rhaz (-q) = -rhaz q := by
  obtain hq | rfl | hq := lt_trichotomy q 0
  · rw [rhaz_of_neg hq, rhaz_of_nonneg (neg_nonneg.mpr hq.le), neg_neg]
  · rw [neg_zero, rhaz_of_nonneg le_rfl]
    norm_num
  · rw [rhaz_of_nonneg hq.le, rhaz_of_neg (neg_lt_zero.mpr hq), neg_neg]

/-- Rounding passes a bound k ≥ 0 from half a unit above it on: the tie goes up. -/
theorem lt_rhaz_iff {k : ℤ} (hk : 0 ≤ k) (q : ℚ) : k < rhaz q ↔ (k : ℚ) + 1 / 2 ≤ q := by
  have hk' : (0 : ℚ) ≤ k := Int.cast_nonneg hk
  obtain hq | hq := le_or_gt 0 q
  · rw [rhaz_of_nonneg hq, ← Int.add_one_le_iff, Int.le_floor, Int.cast_add, Int.cast_one]
    constructor <;> intro h <;> linarith
  · have hfloor : 0 ≤ ⌊-q + 1 / 2⌋ := Int.floor_nonneg.mpr (by linarith)
    rw [rhaz_of_neg hq]
    exact iff_of_false (by omega) (by linarith)

/-- Rounding passes a bound -k ≤ 0 from half a unit below it on: the tie goes down. -/
theorem rhaz_lt_neg_iff {k : ℤ} (hk : 0 ≤ k) (q : ℚ) : rhaz q < -k ↔ q ≤ -((k : ℚ) + 1 / 2) := by
  rw [lt_neg, ← rhaz_neg, lt_rhaz_iff hk, le_neg]

/-! ## The three encoders -/

/-- A check that raises EncodingError raises nothing else. -/
theorem errorIf_eq_error_iff {w : Nat} (p : Prop) [Decidable p] (v : BitVec w) (e : ErrorKind) :
    (if p then .error .encodingError else .ok v : Except ErrorKind (BitVec w)) = .error e ↔
      e = .encodingError ∧ p := by
  split_ifs with hp <;> simp [hp, eq_comm]

/-- An encoder rejects every NaN and infinity before it looks at the value (D28). -/
theorem nonFinite_or_eq_error_iff {w : Nat} {r : Except ErrorKind (BitVec w)} {p : Prop} {e : ErrorKind}
    (hr : r = .error e ↔ e = .encodingError ∧ p) (val : F32) :
    (if isNaN val || isInf val then .error .encodingError else r) = .error e ↔
      e = .encodingError ∧ (isNaN val = true ∨ isInf val = true ∨ p) := by
  split_ifs with hval
  · rw [Bool.or_eq_true] at hval
    simpa [← or_assoc, hval] using eq_comm
  · rw [Bool.or_eq_true, not_or] at hval
    simp [hr, hval]

/-- LFX16.ENC's range ends half a unit above the largest word (R121). -/
theorem lfx16_overflow_iff (v : ℚ) (n : ℤ) : 65535 < rhaz (v / pow2 n) ↔ 65535.5 * (2 : ℚ) ^ n ≤ v := by
  rw [lt_rhaz_iff (by norm_num), le_div_iff₀ (pow2_pos n), pow2_eq_zpow]
  norm_num

/-- LFX16.ENC raises EncodingError alone, in the cases of R232. -/
theorem lfx16Encode_eq_error_iff (val : F32) (exp : Byte) (e : ErrorKind) :
    lfx16Encode val exp = .error e ↔ e = .encodingError ∧
      (isNaN val = true ∨ isInf val = true ∨ real val < 0 ∨ 65535.5 * (2 : ℚ) ^ exp.toInt ≤ real val) := by
  refine nonFinite_or_eq_error_iff ?_ val
  by_cases hneg : real val < 0
  · simp [hneg, eq_comm]
  · rw [if_neg hneg, errorIf_eq_error_iff, or_iff_right hneg]
    exact and_congr_right' (lfx16_overflow_iff _ _)

/-- The exact value of DIR.ENC is the formula of R143. -/
theorem dirEncodeExact_eq_value (c : Coefficients) (v : ℚ) : dirEncodeExact c v = dirEncodeValue c v := by
  have hscale : dirScale c.r.toInt = scaleOf c.r.toInt := by
    simp only [dirScale, scaleOf, pow10_eq_zpow, Config.dirRMin, Config.dirRMax]
  rw [dirEncodeValue, ← hscale]
  rfl

/-- DIR.ENC raises EncodingError alone, in the cases of R232. -/
theorem dirEncode_eq_error_iff (coef : Coefficients) (val : F32) (e : ErrorKind) :
    dirEncode coef val = .error e ↔ e = .encodingError ∧
      (isNaN val = true ∨ isInf val = true ∨ rhaz (dirEncodeValue coef (real val)) < -32768 ∨
        32767 < rhaz (dirEncodeValue coef (real val))) := by
  rw [← dirEncodeExact_eq_value]
  exact nonFinite_or_eq_error_iff (errorIf_eq_error_iff _ _ e) val

/-! ## The search of LF16.ENC -/

/-- The search runs through the 32 exponents of a five-bit field. -/
theorem mem_lf16Exponents (n : ℤ) : n ∈ lf16Exponents ↔ -16 ≤ n ∧ n ≤ 15 := by
  have hlist : lf16Exponents = (List.range 32).map fun k : ℕ => (k : ℤ) - 16 := by decide
  simp only [hlist, List.mem_map, List.mem_range]
  constructor
  · rintro ⟨k, hk, rfl⟩
    omega
  · rintro ⟨hmin, hmax⟩
    exact ⟨(n + 16).toNat, by omega, by omega⟩

/-- An exponent is valid exactly when the value lies between the two ends of its mantissas. -/
theorem lf16Valid_iff (v : ℚ) (n : ℤ) :
    lf16Valid v n ↔ -(1024.5 * (2 : ℚ) ^ n) < v ∧ v < 1023.5 * (2 : ℚ) ^ n := by
  have hpow : (0 : ℚ) < (2 : ℚ) ^ n := by positivity
  rw [lf16Valid]
  constructor
  · rintro ⟨hpos, hneg⟩
    obtain hv | rfl | hv := lt_trichotomy v 0
    · exact ⟨neg_lt.mp (hneg hv), by linarith⟩
    · exact ⟨by linarith, by linarith⟩
    · exact ⟨by linarith, hpos hv⟩
  · rintro ⟨hlow, hhigh⟩
    exact ⟨fun _ => hhigh, fun _ => neg_lt.mp hlow⟩

/-- A larger exponent takes every value that a smaller one takes. -/
theorem lf16Valid_mono {v : ℚ} {n m : ℤ} (hnm : n ≤ m) (h : lf16Valid v n) : lf16Valid v m := by
  have hpow : (2 : ℚ) ^ n ≤ (2 : ℚ) ^ m := zpow_le_zpow_right₀ one_le_two hnm
  rw [lf16Valid_iff] at h ⊢
  exact ⟨by linarith, by linarith⟩

/-- The mantissa at an exponent is out of range exactly when the exponent is not valid (R102). -/
theorem lf16_mantissa_out_iff (v : ℚ) (n : ℤ) :
    (rhaz (v / pow2 n) < -1024 ∨ 1023 < rhaz (v / pow2 n)) ↔ ¬ lf16Valid v n := by
  rw [rhaz_lt_neg_iff (by norm_num), lt_rhaz_iff (by norm_num), div_le_iff₀ (pow2_pos n), le_div_iff₀ (pow2_pos n),
    pow2_eq_zpow, lf16Valid_iff, not_and_or, not_lt, not_lt]
  norm_num

/-- A turn of the search leaves nothing found exactly when nothing was found before and its exponent is not valid. -/
theorem lf16Try_eq_none_iff (v : ℚ) (best : Option Lf16Candidate) (n : ℤ) :
    lf16Try v best n = none ↔ best = none ∧ ¬ lf16Valid v n := by
  rw [← lf16_mantissa_out_iff, lf16Try]
  simp only [Config.lf16MantMin, Config.lf16MantMax]
  split_ifs with hout
  · simp [hout]
  · cases best with
    | none => simp [hout]
    | some b =>
      simp only [hout, if_false]
      split_ifs <;> simp

/-- The search finds nothing exactly when no exponent is valid. -/
theorem lf16Search_eq_none_iff (v : ℚ) : lf16Search v = none ↔ ∀ n ∈ lf16Exponents, ¬ lf16Valid v n := by
  have hfold (l : List ℤ) (best : Option Lf16Candidate) :
      l.foldl (lf16Try v) best = none ↔ best = none ∧ ∀ n ∈ l, ¬ lf16Valid v n := by
    induction l generalizing best with
    | nil => simp
    | cons n l ih => rw [List.foldl_cons, ih, lf16Try_eq_none_iff, List.forall_mem_cons, and_assoc]
  simpa [lf16Search] using hfold lf16Exponents none

/-- The largest exponent decides whether the search finds anything. -/
theorem lf16Search_eq_none_iff_out (v : ℚ) : lf16Search v = none ↔ 33538048 ≤ v ∨ v ≤ -33570816 := by
  have hlargest : lf16Search v = none ↔ ¬ lf16Valid v 15 := by
    rw [lf16Search_eq_none_iff]
    constructor
    · exact fun h => h 15 ((mem_lf16Exponents 15).mpr (by norm_num))
    · exact fun h n hn hvalid => h (lf16Valid_mono ((mem_lf16Exponents n).mp hn).2 hvalid)
  rw [hlargest, lf16Valid_iff, not_and_or, not_lt, not_lt, or_comm]
  norm_num

/-- LF16.ENC raises EncodingError alone, in the cases of R232. -/
theorem lf16Encode_eq_error_iff (val : F32) (e : ErrorKind) :
    lf16Encode val = .error e ↔ e = .encodingError ∧
      (isNaN val = true ∨ isInf val = true ∨ 33538048 ≤ real val ∨ real val ≤ -33570816) := by
  refine nonFinite_or_eq_error_iff ?_ val
  by_cases hzero : real val = 0
  · simp [hzero]
  · rw [if_neg hzero, ← lf16Search_eq_none_iff_out]
    cases lf16Search (real val) <;> simp [eq_comm]

/-! ## The two statements -/

/-- Settles O14: of the four functions that can raise an error the three encoders raise EncodingError, each in its own
cases, and the parser does not. -/
theorem encodingErrorIsRaisedExactlyInTheListedCases :
    Obligations.EncodingErrorIsRaisedExactlyInTheListedCases := by
  refine ⟨fun i s => (exec_eq_error_iff i s .encodingError).trans ?_,
    fun s q hreq hstep => (step_eq_error_iff hreq (by decide)).mp hstep⟩
  simp [lf16Encode_eq_error_iff, lfx16Encode_eq_error_iff, dirEncode_eq_error_iff, dirParse_eq_error_iff]

/-- DIR.COEF alone raises InvalidResponseLength, when its length is below five (R233). -/
theorem exec_eq_invalidResponseLength_iff (i : Instr) (s : State) :
    exec i s = .next (s.answer (.error .invalidResponseLength)) ↔
      ∃ buf len, i = .dirCoef buf len ∧ len.toNat < 5 := by
  simp [exec_eq_error_iff, lf16Encode_eq_error_iff, lfx16Encode_eq_error_iff, dirEncode_eq_error_iff,
    dirParse_eq_error_iff]

/-- Settles O15: the parser alone raises InvalidResponseLength, and a step reaches it from `op` 0x22 alone. -/
theorem invalidResponseLengthIsRaisedExactlyByShortBuffers :
    Obligations.InvalidResponseLengthIsRaisedExactlyByShortBuffers := by
  refine ⟨exec_eq_invalidResponseLength_iff, fun s q hreq => (step_eq_error_iff hreq (by decide)).trans ?_⟩
  simp only [exec_eq_invalidResponseLength_iff]
  constructor
  · rintro ⟨_, hdecode, buf, len, rfl, hlen⟩
    obtain ⟨hop, -, rfl⟩ := (decode_eq_dirCoef_iff q buf len).mp hdecode
    exact ⟨hop, hlen⟩
  · rintro ⟨hop, hlen⟩
    exact ⟨_, (decode_eq_dirCoef_iff q q.buf q.len).mpr ⟨hop, rfl, rfl⟩, q.buf, q.len, rfl, hlen⟩

end Sys2Proof.Machine
end

section
/-! PROOF of the statements on requests, their bits and the decoder (spec/30_encoding.md R60 to R63). A port placed in
the 167 bits is found again at its own field and shows nothing in any other; the decoder and the encoder are then
compared operation by operation. -/

namespace Sys2Proof

open Safety

/-! ## Ports within the 167 bits -/

/-- The field of a placed port shows the port. -/
theorem extractLsb'_placePort_self {w : Nat} (offset : Nat) (x : BitVec w) (h : offset + w ≤ 167) :
    (placePort offset x).extractLsb' offset w = x := by
  refine BitVec.eq_of_getLsbD_eq fun k hk => ?_
  rw [BitVec.getLsbD_extractLsb', placePort_inside offset x _ (by omega) (by omega), decide_eq_true hk, Bool.true_and,
    Nat.add_sub_cancel_left]

/-- A field beside a placed port shows nothing of it. -/
theorem extractLsb'_placePort_of_disjoint {w : Nat} (offset : Nat) (x : BitVec w) {start len : Nat}
    (h : start + len ≤ offset ∨ offset + w ≤ start) : (placePort offset x).extractLsb' start len = 0#len := by
  refine BitVec.eq_of_getLsbD_eq fun k hk => ?_
  rw [BitVec.getLsbD_extractLsb', BitVec.getLsbD_zero, Bool.and_eq_false_iff]
  refine .inr (h.elim (fun hbelow => ?_) fun habove => ?_)
  · exact placePort_below offset x _ (by omega)
  · exact placePort_above offset x _ (by omega)

/-- The low bits of a number and the field above them, put back at their places, are its low bits that far. -/
theorem setWidth_or_placePort_extractLsb' (x : BitVec 167) (offset w : Nat) :
    (x.extractLsb' 0 offset).setWidth 167 ||| placePort offset (x.extractLsb' offset w) =
      (x.extractLsb' 0 (offset + w)).setWidth 167 := by
  refine BitVec.eq_of_getLsbD_eq fun k hk => ?_
  simp only [BitVec.getLsbD_or, BitVec.getLsbD_setWidth, placePort_getLsbD, BitVec.getLsbD_extractLsb', hk,
    decide_true, Bool.true_and, Nat.zero_add]
  obtain hlow | hhigh := Nat.lt_or_ge k offset
  · simp [hlow, show ¬ offset ≤ k by omega, show k < offset + w by omega]
  · simp [hhigh, show ¬ k < offset by omega, Nat.sub_lt_iff_lt_add' hhigh, Nat.add_sub_cancel' hhigh]

/-- The ports read back from the bits of a request are its ports. -/
@[simp] theorem requestOfBits_requestToBits (q : Request) : requestOfBits (requestToBits q) = q := by
  cases q
  simp [requestOfBits, requestToBits, BitVec.extractLsb'_or, extractLsb'_placePort_self,
    extractLsb'_placePort_of_disjoint]

/-- The bits of the ports read from 167 bits are these bits: each port in turn extends the low bits put back so far. -/
theorem requestToBits_requestOfBits (x : BitVec 167) : requestToBits (requestOfBits x) = x := by
  have hop : placePort 0 (x.extractLsb' 0 8) = (x.extractLsb' 0 8).setWidth 167 := BitVec.shiftLeft_zero _
  rw [requestToBits, requestOfBits, hop]
  simp only [setWidth_or_placePort_extractLsb', Nat.reduceAdd, BitVec.extractLsb'_eq_self, BitVec.setWidth_eq]

/-- The lowest eight bits of a request are its `op` port. -/
theorem extractLsb'_requestToBits_op (q : Request) : (requestToBits q).extractLsb' 0 8 = q.op :=
  congrArg Request.op (requestOfBits_requestToBits q)

/-! ## Decoding an encoding -/

@[simp] theorem encode_op (i : Instr) : (encode i).op = opcode i := by cases i <;> rfl

/-- Every instruction is decoded from its encoding. -/
@[simp] theorem decode_encode (i : Instr) : decode (encode i) = .ok i := by
  have hbyte (x : Byte) : (x.setWidth 16).extractLsb' 0 8 = x := by
    rw [BitVec.extractLsb'_setWidth_of_le (by omega), BitVec.extractLsb'_eq_self]
  cases i <;> simp [encode, decode, opcode, rawByte, hbyte]

/-- Settles O1: the bits of the encoding give the encoding back, and that decodes to the instruction. -/
theorem decodingTheBitsOfAnEncodingGivesTheInstruction :
    Obligations.DecodingTheBitsOfAnEncodingGivesTheInstruction := fun i =>
  ⟨by rw [requestOfBits_requestToBits, decode_encode], by rw [extractLsb'_requestToBits_op, encode_op]⟩

/-- Settles O2: the two directions of the packing. -/
theorem requestRecordsAndTheirBitsCorrespond : Obligations.RequestRecordsAndTheirBitsCorrespond :=
  ⟨requestOfBits_requestToBits, requestToBits_requestOfBits⟩

/-- Settles O4: each word is evaluated. -/
theorem sampleRequestWordsDecode : Obligations.SampleRequestWordsDecode := by
  unfold Obligations.SampleRequestWordsDecode
  decide

/-! ## Encoding what was decoded -/

/-- A byte operand is what the raw port shows in `raw[7:0]`. -/
@[simp] theorem rawByte_toNat (q : Request) : (rawByte q).toNat = q.raw.toNat % 256 := by
  simp [rawByte]

/-- The fields of a mode record side by side are the record. -/
theorem modeRecord_eq_fields (x : BitVec 11) :
    BitVec.ofBool (x.getLsbD 10) ++ x.extractLsb' 8 2 ++ x.extractLsb' 0 8 = x := by
  have hflag : BitVec.ofBool (x.getLsbD 10) = x.extractLsb' 10 1 := by
    rw [← BitVec.setWidth_eq (x.extractLsb' 10 1), BitVec.setWidth_one, BitVec.getLsbD_extractLsb']
    rfl
  rw [hflag, BitVec.extractLsb'_append_extractLsb'_eq_extractLsb' (start₁ := 8) (len₁ := 2) rfl,
    BitVec.extractLsb'_append_extractLsb'_eq_extractLsb' (start₁ := 0) (len₁ := 8) rfl]
  exact BitVec.extractLsb'_eq_self

/-- The four variant numbers of a mode record. -/
theorem variant_cases (n : BitVec 2) : n = 0#2 ∨ n = 1#2 ∨ n = 2#2 ∨ n = 3#2 := by
  revert n; decide

/-- Bit 9 of a mode record is the high bit of its variant number. -/
theorem modeRecord_getLsbD_9 (x : BitVec 11) : x.getLsbD 9 = (x.extractLsb' 8 2).getLsbD 1 := by
  rw [BitVec.getLsbD_extractLsb']
  rfl

/-- Unpacking and packing a mode record keeps the flag and the variant number, and the parameter where the variant has
one: where bit 9 is clear (R69). -/
theorem packMode_unpackMode (x : BitVec 11) :
    packMode (unpackMode x) =
      BitVec.ofBool (x.getLsbD 10) ++ x.extractLsb' 8 2 ++ if x.getLsbD 9 then 0#8 else x.extractLsb' 0 8 := by
  rw [modeRecord_getLsbD_9]
  obtain hvar | hvar | hvar | hvar := variant_cases (x.extractLsb' 8 2) <;>
    simp [unpackMode, packMode, hvar]

/-- The flag and the variant number survive unpacking and packing. -/
theorem extractLsb'_packMode_unpackMode (x : BitVec 11) :
    (packMode (unpackMode x)).extractLsb' 8 3 = x.extractLsb' 8 3 := by
  conv_rhs => rw [← modeRecord_eq_fields x]
  rw [packMode_unpackMode, BitVec.extractLsb'_append_eq_left, BitVec.extractLsb'_append_eq_left]

/-- A record whose variant has a parameter survives unpacking and packing. -/
theorem packMode_unpackMode_of_param {x : BitVec 11} (h : x.getLsbD 9 = false) : packMode (unpackMode x) = x := by
  rw [packMode_unpackMode, h]
  exact modeRecord_eq_fields x

/-- The encoding of a decoded instruction shows what the request shows on every port its operation reads, but for the
mode port of VM.ENC. -/
theorem sameOperands_encode {q : Request} {i : Instr} (h : decode q = .ok i) (hop : q.op ≠ 0x31#8) :
    sameOperands q (encode i) := by
  refine ⟨by rw [encode_op, Machine.opcode_of_decode h], ?_⟩
  have hop' : q.op.toNat ≠ 0x31 := fun h => hop (BitVec.eq_of_toNat_eq h)
  unfold decode at h
  split at h
  case h_9 hvmEnc => exact absurd hvmEnc hop'
  case h_40 => cases h
  all_goals
    cases h
    simp only [portsRead, ‹q.op.toNat = _›]
    simp [portValue, encode]

/-- VM.ENC's record on the mode port is unpacked when it is decoded (R69). -/
theorem decode_vmEnc {q : Request} (hop : q.op = 0x31#8) : decode q = .ok (.vmEnc (unpackMode q.mode)) := by
  simp [decode, hop]

/-- Settles O3: of the mode port the flag and the variant number come back, and the parameter where there is one. -/
theorem decodingKeepsEveryPortBitThatIsRead : Obligations.DecodingKeepsEveryPortBitThatIsRead := by
  refine fun q i h => ⟨sameOperands_encode h, fun hop => ⟨by rw [encode_op, Machine.opcode_of_decode h], ?_⟩⟩
  obtain rfl : .vmEnc (unpackMode q.mode) = i := by simpa [decode_vmEnc hop] using h
  exact ⟨extractLsb'_packMode_unpackMode q.mode, packMode_unpackMode_of_param⟩

end Sys2Proof
end

section
/-! PROOF of the statements on the step (spec/10_state.md section 1, spec/20_memory.md section 3, spec/60_exceptions.md
section 2, spec/70_reset_and_hazards.md). A step either has no request and changes nothing, or answers its request with
a response that the request's decoding fixes; and the decoding sees the ports the operation reads alone. -/

namespace Sys2Proof.Machine

open Safety

/-! ## Reserved and legal values of `op` -/

/-- An instruction has a legal `op` (R61). -/
theorem opcode_mem_legalOps (i : Instr) : opcode i ∈ legalOps := by
  cases i <;> simp [opcode, legalOps]

/-- No legal value of `op` is reserved (R62). -/
theorem not_reservedOp_of_mem_legalOps {op : Byte} (h : op ∈ legalOps) : ¬ reservedOp op := by
  have hall : ∀ op ∈ legalOps, ¬ reservedOp op := by simp [legalOps, reservedOp]
  exact hall op h

/-- What the decoder rejects has a reserved value of `op`: the eight ranges hold every value but the 39. -/
theorem reservedOp_of_decode_error {q : Request} {e : DecodeError} (h : decode q = .error e) : reservedOp q.op := by
  have hlt := q.op.isLt
  unfold decode at h
  split at h
  case h_40 =>
    clear h
    simp only [imp_false] at *
    simp only [reservedOp]
    omega
  all_goals cases h

/-- A request decodes and its `op` is legal, or it is rejected and its `op` is reserved. -/
theorem decode_cases (q : Request) :
    (∃ i, decode q = .ok i ∧ q.op ∈ legalOps ∧ ¬ reservedOp q.op) ∨
      ∃ e, decode q = .error e ∧ q.op ∉ legalOps ∧ reservedOp q.op := by
  cases hd : decode q with
  | ok i =>
    have hlegal : q.op ∈ legalOps := opcode_of_decode hd ▸ opcode_mem_legalOps i
    exact .inl ⟨i, rfl, hlegal, not_reservedOp_of_mem_legalOps hlegal⟩
  | error e =>
    have hreserved := reservedOp_of_decode_error hd
    exact .inr ⟨e, rfl, fun hlegal => not_reservedOp_of_mem_legalOps hlegal hreserved, hreserved⟩

/-- No instruction raises IllegalOp. -/
theorem exec_ne_illegalOp (i : Instr) (s : State) : exec i s ≠ .next (s.answer (.error .illegalOp)) := by
  simp [exec_eq_error_iff, lf16Encode_eq_error_iff, lfx16Encode_eq_error_iff, dirEncode_eq_error_iff,
    dirParse_eq_error_iff]

/-- Settles O5: a request decodes exactly where its `op` is not reserved, and no instruction raises IllegalOp. -/
theorem reservedOpsAndNoOthersRaiseIllegalOp : Obligations.ReservedOpsAndNoOthersRaiseIllegalOp := by
  intro s q hreq
  obtain ⟨i, hd, -, hnot⟩ | ⟨e, hd, -, hreserved⟩ := decode_cases q
  · refine ⟨fun h => absurd h hnot, fun _ => ⟨i, hd, step_of_decode_ok hreq hd, ?_⟩⟩
    rw [step_of_decode_ok hreq hd]
    exact exec_ne_illegalOp i s
  · exact ⟨fun _ => step_of_decode_error hreq hd, fun h => absurd hreserved h⟩

/-! ## What a step can do -/

/-- Settles O6. -/
theorem stepRunsTheDecodedInstruction : Obligations.StepRunsTheDecodedInstruction :=
  fun _ _ _ => step_of_decode_ok

theorem step_of_no_request {s : State} (h : s.req = none) : step s = .next s := by
  simp only [step, fetch, h, idle]

/-- Settles O7. -/
theorem withoutARequestNothingChanges : Obligations.WithoutARequestNothingChanges :=
  fun _ => step_of_no_request

/-- What a request decodes to fixes the response of the step, at every state that holds such a request. -/
theorem step_answers_of_decode (d : Except DecodeError Instr) :
    ∃ r : Response, ∀ (s : State) (q : Request), s.req = some q → decode q = d → step s = .next (s.answer r) := by
  obtain ⟨r, hr⟩ := step_present_answers d
  refine ⟨r, fun s q hreq hd => ?_⟩
  have hs : s.present q = s := by rw [State.present, ← hreq]
  simpa only [hs] using hr q s hd

/-- All a step can do: nothing without a request, and otherwise answer it. -/
theorem step_cases (s : State) :
    (s.req = none ∧ step s = .next s) ∨ ∃ q r, s.req = some q ∧ step s = .next (s.answer r) := by
  cases hreq : s.req with
  | none => exact .inl ⟨rfl, step_of_no_request hreq⟩
  | some q =>
    obtain ⟨r, hr⟩ := step_answers_of_decode (decode q)
    exact .inr ⟨q, r, rfl, hr s q hreq rfl⟩

/-- Settles O12: a step leaves the request alone and the response ports are read by no step. -/
theorem operationsAreIdempotentAndLeaveNoTrace : Obligations.OperationsAreIdempotentAndLeaveNoTrace := by
  intro s s' hstep
  have later_requests (q : Request) : ∃ r : Response,
      step (s.present q) = .next ((s.present q).answer r) ∧
        step (s'.present q) = .next ((s'.present q).answer r) := by
    obtain ⟨r, hr⟩ := step_present_answers (decode q)
    exact ⟨r, hr q s rfl, hr q s' rfl⟩
  obtain ⟨hnone, hnext⟩ | ⟨q, r, hreq, hnext⟩ := step_cases s
  · obtain rfl := Host.Outcome.next.inj (hnext.symm.trans hstep)
    exact ⟨rfl, hnext, later_requests⟩
  · obtain rfl := Host.Outcome.next.inj (hnext.symm.trans hstep)
    refine ⟨rfl, ?_, later_requests⟩
    obtain ⟨r', hr'⟩ := step_answers_of_decode (decode q)
    obtain rfl : r = r' := by simpa [State.answer] using hnext.symm.trans (hr' s q hreq rfl)
    exact hr' (s.answer r) q hreq rfl

/-- Settles O13: an instruction that is none of the four ends in `respond`. -/
theorem totalOperationsAlwaysReturnAResult : Obligations.TotalOperationsAlwaysReturnAResult := by
  intro i s hlf16 hlfx16 hdirEnc hdirCoef
  cases i
  case lf16Enc val => exact absurd rfl (hlf16 val)
  case lfx16Enc val exp => exact absurd rfl (hlfx16 val exp)
  case dirEnc coef val => exact absurd rfl (hdirEnc coef val)
  case dirCoef buf len => exact absurd rfl (hdirCoef buf len)
  all_goals exact ⟨_, respond_spec _ s⟩

/-- Settles O9: the invariant speaks of a response, and after reset there is none. -/
theorem resetHasNoRequestAndMeetsTheInvariant : Obligations.ResetHasNoRequestAndMeetsTheInvariant :=
  ⟨rfl, rfl, fun r hr => by simp at hr⟩

/-! ## The ports that are read -/

/-- Two requests have the same byte operand exactly when they agree on `raw[7:0]`. -/
theorem rawByte_eq_iff (q q' : Request) : rawByte q = rawByte q' ↔ q.raw.toNat % 256 = q'.raw.toNat % 256 := by
  rw [← BitVec.toNat_inj, rawByte_toNat, rawByte_toNat]

/-- Requests for the same operation that agree on the ports it reads decode alike. -/
theorem decode_eq_of_sameOperands {q q' : Request} (h : sameOperands q q') : decode q = decode q' := by
  obtain ⟨hop, hports⟩ := h
  unfold decode
  rw [← hop]
  split
  case h_40 => rfl
  all_goals
    simp only [portsRead, ‹q.op.toNat = _›] at hports
    simp [portValue, BitVec.toNat_inj, ← rawByte_eq_iff] at hports
    simp [hports]

/-- Settles O11: such requests decode alike, and what a request decodes to fixes the response. -/
theorem responseDependsOnTheReadPortsOnly : Obligations.ResponseDependsOnTheReadPortsOnly := by
  intro s t q q' hs ht hsame
  obtain ⟨r, hr⟩ := step_answers_of_decode (decode q)
  exact ⟨r, hr s q hs rfl, hr t q' ht (decode_eq_of_sameOperands hsame).symm⟩

end Sys2Proof.Machine
end

section
/-! PROOF of the statements on DIR.COEF (spec/42_directlinear.md R144), VOUT_MODE (spec/43_vout_mode.md R170, R171) and
the status registers (spec/44_status.md R190, R203, R204). Each operation moves or masks fields; a packed record is its
fields side by side, and what is read back from it are the fields. -/

namespace Sys2Proof.Machine

open Safety

/-! ## DIR.COEF -/

/-- Settles O37: the parser returns the buffer from length five on. -/
theorem parsedCoefficientsEqualTheBuffer : Obligations.ParsedCoefficientsEqualTheBuffer :=
  fun buf _ s hlen => exec_dirCoef_of_len hlen buf s

/-- What stands in front of w bits counts 2 ^ w times. -/
theorem append_toNat {v w : Nat} (hi : BitVec v) (lo : BitVec w) : (hi ++ lo).toNat = hi.toNat * 2 ^ w + lo.toNat := by
  rw [BitVec.toNat_append, ← Nat.shiftLeft_add_eq_or_of_lt lo.isLt, Nat.shiftLeft_eq]

/-- Settles O36: the record of the three little-endian fields is the buffer. -/
theorem coefficientsAreReadLittleEndian : Obligations.CoefficientsAreReadLittleEndian := by
  intro b0 b1 b2 b3 b4 len s hlen
  have hpack : packCoef { m := b1 ++ b0, b := b3 ++ b2, r := b4 } = b4 ++ b3 ++ b2 ++ b1 ++ b0 := by
    refine BitVec.eq_of_toNat_eq ?_
    simp only [packCoef, append_toNat]
    ring
  refine ⟨{ m := b1 ++ b0, b := b3 ++ b2, r := b4 }, ?_, byte_append_toNat b1 b0, byte_append_toNat b3 b2, rfl,
    unpackCoef_packCoef _⟩
  rw [hpack]
  exact exec_dirCoef_of_len hlen _ s

/-! ## A VOUT_MODE byte put together from its fields -/

theorem modeByteFields_selector (r : Bool) (n : BitVec 2) (p : BitVec 5) :
    BitVec.extractLsb' (n := 8) 5 2 (BitVec.ofBool r ++ n ++ p) = n := by
  have h : (BitVec.ofBool r ++ n ++ p).extractLsb' 5 2 = n := by
    rw [BitVec.extractLsb'_append_eq_of_le le_rfl, Nat.sub_self, BitVec.extractLsb'_append_eq_right]
  exact h

theorem modeByteFields_param (r : Bool) (n : BitVec 2) (p : BitVec 5) :
    BitVec.extractLsb' (n := 8) 0 5 (BitVec.ofBool r ++ n ++ p) = p :=
  BitVec.extractLsb'_append_eq_right

theorem modeByteFields_relative (r : Bool) (n : BitVec 2) (p : BitVec 5) :
    BitVec.getLsbD (w := 8) (BitVec.ofBool r ++ n ++ p) 7 = r :=
  flagBits_getLsbD_top r n p

/-! ## VM.DEC -/

/-- The parameter of the record VM.DEC answers, by the selector of the byte (R170). -/
def parsedParam (x : Byte) : Byte :=
  if x.extractLsb' 5 2 = 0#2 then (x.extractLsb' 0 5).signExtend 8
  else if x.extractLsb' 5 2 = 1#2 then (x.extractLsb' 0 5).setWidth 8
  else 0#8

/-- The record VM.DEC answers is the flag, the selector and the parameter of the byte side by side. -/
theorem packMode_vmParse (x : Byte) :
    packMode (vmParse x) = BitVec.ofBool (x.getLsbD 7) ++ x.extractLsb' 5 2 ++ parsedParam x := by
  obtain hsel | hsel | hsel | hsel := variant_cases (x.extractLsb' 5 2) <;>
    simp [vmParse, packMode, parsedParam, hsel]

/-- The parameter field of the answered record. -/
theorem packMode_vmParse_param (x : Byte) : (packMode (vmParse x)).extractLsb' 0 8 = parsedParam x := by
  rw [packMode_vmParse]
  exact modeBits_param _ _ _

theorem parsedParam_of_exponent {x : Byte} (h : x.extractLsb' 5 2 = 0#2) :
    (parsedParam x).toInt = (x.extractLsb' 0 5).toInt := by
  rw [parsedParam, if_pos h, BitVec.toInt_signExtend_of_le (by omega)]

theorem parsedParam_of_code {x : Byte} (h : x.extractLsb' 5 2 = 1#2) :
    (parsedParam x).toNat = (x.extractLsb' 0 5).toNat := by
  rw [parsedParam, if_neg (by simp [h]), if_pos h, BitVec.toNat_setWidth_of_le (by omega)]

theorem parsedParam_of_reserved {x : Byte} (h : x.getLsbD 6 = true) : parsedParam x = 0#8 := by
  rw [modeByte_getLsbD_6] at h
  rw [parsedParam, if_neg fun hsel => by simp [hsel] at h, if_neg fun hsel => by simp [hsel] at h]

/-- Settles O39: the record is the flag and the selector of the byte with the parsed parameter. -/
theorem voutModeBytesParseFieldByField : Obligations.VoutModeBytesParseFieldByField := by
  refine fun x s => ⟨packMode (vmParse x), exec_vmDec x s, ?_, ?_, ?_⟩
  · rw [packMode_getLsbD_relative, vmParse_relative]
  · rw [packMode_vmParse]
    exact modeBits_variant _ _ _
  · rw [packMode_vmParse_param]
    exact ⟨parsedParam_of_exponent, parsedParam_of_code, parsedParam_of_reserved⟩

/-! ## VM.ENC -/

/-- Re-encoding an unpacked record returns its flag, its variant number and the low bits of its parameter where the
variant has one: where bit 9 is clear (R171). -/
theorem vmUnparse_unpackMode (x : BitVec 11) :
    vmUnparse (unpackMode x) =
      BitVec.ofBool (x.getLsbD 10) ++ x.extractLsb' 8 2 ++ if x.getLsbD 9 then 0#5 else x.extractLsb' 0 5 := by
  have hlow : (x.extractLsb' 0 8).extractLsb' 0 5 = x.extractLsb' 0 5 := by
    rw [← BitVec.setWidth_eq_extractLsb' (by omega : 8 ≤ 11), BitVec.extractLsb'_setWidth_of_le (by omega)]
  rw [modeRecord_getLsbD_9]
  obtain hvar | hvar | hvar | hvar := variant_cases (x.extractLsb' 8 2) <;>
    simp [unpackMode, vmUnparse, hvar, hlow]

/-- The parameter bits of a re-encoded record. -/
theorem vmUnparse_unpackMode_param (x : BitVec 11) :
    (vmUnparse (unpackMode x)).extractLsb' 0 5 = if x.getLsbD 9 then 0#5 else x.extractLsb' 0 5 := by
  rw [vmUnparse_unpackMode]
  exact modeByteFields_param _ _ _

/-- Settles O40: the step runs VM.ENC on the unpacked record, whose fields come back in the byte. -/
theorem modeRecordsEncodeFieldByField : Obligations.ModeRecordsEncodeFieldByField := by
  intro s q hreq hop
  refine ⟨vmUnparse (unpackMode q.mode), ?_, vmUnparse_getLsbD_relative _, ?_, ?_, ?_⟩
  · rw [step_of_decode_ok hreq (decode_vmEnc hop)]
    exact exec_vmEnc _ s
  · rw [vmUnparse_unpackMode]
    exact modeByteFields_selector _ _ _
  · exact fun h => (vmUnparse_unpackMode_param q.mode).trans (by rw [h]; rfl)
  · exact fun h => (vmUnparse_unpackMode_param q.mode).trans (by rw [h]; rfl)

/-- Sign-extending the low five bits of a byte whose value five bits can hold gives the byte. -/
theorem signExtend_low_of_range {e : Byte} (hmin : -16 ≤ e.toInt) (hmax : e.toInt ≤ 15) :
    (e.extractLsb' 0 5).signExtend 8 = e := by
  refine BitVec.eq_of_toInt_eq ?_
  have hlow : (e.setWidth 5).toInt = e.toInt.bmod (2 ^ 5) := by
    rw [BitVec.toInt_setWidth, BitVec.toInt_eq_toNat_bmod, Int.bmod_bmod_of_dvd (by norm_num)]
  rw [BitVec.toInt_signExtend_of_le (by omega), ← BitVec.setWidth_eq_extractLsb' (by omega), hlow,
    Int.bmod_eq_of_le (by omega) (by omega)]

/-- Zero-extending the low five bits of a byte below 32 gives the byte. -/
theorem setWidth_low_of_range {c : Byte} (h : c.toNat ≤ 31) : (c.extractLsb' 0 5).setWidth 8 = c := by
  refine BitVec.eq_of_toNat_eq ?_
  rw [← BitVec.setWidth_eq_extractLsb' (by omega), BitVec.toNat_setWidth_of_le (by omega), BitVec.toNat_setWidth,
    Nat.mod_eq_of_lt (by omega)]

/-- Parsing a re-encoded record gives the record, for a record that a byte can hold (R171). -/
theorem vmParse_vmUnparse {x : ModeSelection} (h : x.wellFormed = true) : vmParse (vmUnparse x) = x := by
  obtain ⟨relative, variant⟩ := x
  cases variant with
  | fixedExponent e =>
    obtain ⟨hmin, hmax⟩ : -16 ≤ e.toInt ∧ e.toInt ≤ 15 := by simpa [ModeSelection.wellFormed] using h
    simp only [vmParse, vmUnparse, modeByteFields_selector, modeByteFields_param, modeByteFields_relative,
      signExtend_low_of_range hmin hmax, if_true]
  | vidCode c =>
    have hmax : c.toNat ≤ 31 := by simpa [ModeSelection.wellFormed] using h
    simp only [vmParse, vmUnparse, modeByteFields_selector, modeByteFields_param, modeByteFields_relative,
      setWidth_low_of_range hmax, if_true]
    rfl
  | directFormat | ieeeHalfFormat =>
    simp only [vmParse, vmUnparse, modeByteFields_selector, modeByteFields_relative]
    rfl

/-- Settles O42: parsing is the inverse of re-encoding on such records. -/
theorem producibleModeRecordsSurviveReencoding : Obligations.ProducibleModeRecordsSurviveReencoding := by
  refine fun x s h => ⟨vmUnparse x, exec_vmEnc x s, ?_⟩
  conv_rhs => rw [← vmParse_vmUnparse h]
  exact exec_vmDec _ s

/-! ## The status registers -/

/-- ST.BITS.r answers its value AND the register's mask (R203, D15). -/
theorem exec_stBits (r : StatusReg) (value : Half) (s : State) :
    exec (stBits r value) s = .next (s.answer (.ok ((statusValue r value).setWidth 40))) := by
  have hread : exec (stBits r value) s =
      respond (statusBits r ((value.setWidth (statusWidth r)).setWidth 16)) s := by cases r <;> rfl
  rw [hread, statusBits, statusValue_truncated, respond_spec]

/-- ST.TEST.r answers whether the position is set in its value and in the register's mask (R204, D15). -/
theorem exec_stTest (r : StatusReg) (value : Half) (flag : BitVec 4) (s : State) :
    exec (stTest r value flag) s = .next (s.answer (.ok
      (if value.getLsbD flag.toNat = true ∧ (statusMask r).getLsbD flag.toNat = true then 1#40 else 0#40))) := by
  have hread : exec (stTest r value flag) s =
      respond (statusTest r ((value.setWidth (statusWidth r)).setWidth 16) flag) s := by cases r <;> rfl
  rw [hread, statusTest, statusValue_truncated, respond_spec, statusValue_getLsbD]
  cases value.getLsbD flag.toNat <;> cases (statusMask r).getLsbD flag.toNat <;> rfl

/-- Masking twice is masking once. -/
@[simp] theorem statusValue_statusValue (r : StatusReg) (raw : Half) :
    statusValue r (statusValue r raw) = statusValue r raw := by
  rw [statusValue, statusValue, BitVec.and_assoc, BitVec.and_self]

/-- Settles O47: ST.BITS.r answers the masked value, whose bits are these. -/
theorem statusBitsReturnsExactlyTheVocabularyBits : Obligations.StatusBitsReturnsExactlyTheVocabularyBits :=
  fun r raw s => ⟨statusValue r raw, exec_stBits r raw s, fun k _ => statusValue_getLsbD r raw k⟩

/-- Settles O48: ST.TEST.r answers one bit of the masked value. -/
theorem statusTestReportsOneVocabularyBit : Obligations.StatusTestReportsOneVocabularyBit := exec_stTest

/-- Settles O49: the decoded value is masked already. -/
theorem decodedStatusValuesAreStable : Obligations.DecodedStatusValuesAreStable := by
  intro r raw flag s
  have hdec := exec_stDec r (statusValue r raw) s
  have hbits := exec_stBits r (statusValue r raw) s
  have htest := exec_stTest r (statusValue r raw) flag s
  rw [statusValue_statusValue] at hdec hbits
  simp only [statusValue_getLsbD, Bool.and_eq_true, and_assoc, and_self] at htest
  exact ⟨statusValue r raw, rfl, exec_stDec r raw s, hdec, hbits, htest⟩

/-- A byte mask has as many bits on the 16-bit port as in the byte. -/
theorem length_filter_setWidth (m : Byte) :
    ((List.range 16).filter (m.setWidth 16).getLsbD).length = Config.weight m := by
  have hlow : ∀ k ∈ List.range 8, (m.setWidth 16).getLsbD k = m.getLsbD k := by
    intro k hk
    rw [BitVec.getLsbD_setWidth, decide_eq_true (by have := List.mem_range.mp hk; omega), Bool.true_and]
  have hhigh : ∀ k ∈ (List.range 8).map (8 + ·), ¬ (m.setWidth 16).getLsbD k := by
    intro k hk
    obtain ⟨j, -, rfl⟩ := List.mem_map.mp hk
    rw [BitVec.getLsbD_setWidth, BitVec.getLsbD_of_ge m _ (by omega), Bool.and_false]
    exact Bool.false_ne_true
  rw [show 16 = 8 + 8 from rfl, List.range_add, List.filter_append, List.filter_congr hlow,
    List.filter_eq_nil_iff.mpr hhigh, List.append_nil]
  rfl

/-- A mask picked from the list of a weight has that many bits. -/
theorem length_filter_pickedMask {k n : Nat} (hn : n < (Config.masksOfWeight k).length) :
    ((List.range 16).filter (((Config.masksOfWeight k).getD n 0).setWidth 16).getLsbD).length = k := by
  rw [length_filter_setWidth, List.getD_eq_getElem _ _ hn]
  exact (Config.mem_masksOfWeight k _).mp (List.getElem_mem hn)

/-- Settles O50: four masks are picked by their weight, and the others are written out. -/
theorem masksHaveTheFlagCountsOfTheSource : Obligations.MasksHaveTheFlagCountsOfTheSource := by
  refine fun r => ⟨?_, fun k => statusMask_getLsbD_of_width_le⟩
  cases r
  case temp => exact length_filter_pickedMask (Config.tempPick.isLt.trans_eq Config.length_masksOfWeight_four.symm)
  case cml => exact length_filter_pickedMask (Config.cmlPick.isLt.trans_eq Config.length_masksOfWeight_seven.symm)
  case fans12 => exact length_filter_pickedMask (Config.fans12Pick.isLt.trans_eq Config.length_masksOfWeight_six.symm)
  case fans34 => exact length_filter_pickedMask (Config.fans34Pick.isLt.trans_eq Config.length_masksOfWeight_six.symm)
  all_goals rfl

end Sys2Proof.Machine
end

section
/-! PROOF of the statement on `rhaz`, and what the statements on `rne32` need (spec/00_scope.md R11, R12,
spec/30_encoding.md R71). A finite binary32 is a canonical pair: a last place k and an integer n of at most 24 bits, with
its leading bit set unless k is the subnormal quantum. All binary32 values of at least a's binade are multiples of a's
last place, and all others lie below that binade; so rounding a to the nearest multiple of its last place is rounding it
to the nearest binary32. -/

namespace Sys2Proof.Machine

/-! ## Nearest integers -/

/-- An integer within half a unit of x is at least as near to x as every other integer. -/
theorem abs_sub_le_of_near {n : ℤ} {x : ℚ} (h : |(n : ℚ) - x| ≤ 1 / 2) (j : ℤ) : |(n : ℚ) - x| ≤ |(j : ℚ) - x| := by
  obtain rfl | hne := eq_or_ne j n
  · rfl
  · have hgap : (1 : ℚ) ≤ |(j : ℚ) - n| := by exact_mod_cast Int.one_le_abs (sub_ne_zero.mpr hne)
    have htri : |(j : ℚ) - n| ≤ |(j : ℚ) - x| + |(n : ℚ) - x| := by
      simpa [abs_sub_comm] using abs_sub_le (j : ℚ) x n
    linarith

/-- Two integers as near to x as half a unit allows are the same, or x lies halfway. -/
theorem abs_sub_eq_half_of_ne {n j : ℤ} {x : ℚ} (h : |(n : ℚ) - x| ≤ 1 / 2) (heq : |(n : ℚ) - x| = |(j : ℚ) - x|)
    (hne : j ≠ n) : |(n : ℚ) - x| = 1 / 2 := by
  have hgap : (1 : ℚ) ≤ |(j : ℚ) - n| := by exact_mod_cast Int.one_le_abs (sub_ne_zero.mpr hne)
  have htri : |(j : ℚ) - n| ≤ |(j : ℚ) - x| + |(n : ℚ) - x| := by
    simpa [abs_sub_comm] using abs_sub_le (j : ℚ) x n
  linarith

/-- Distances in units of a power of two. -/
theorem abs_mul_zpow_sub (x a : ℚ) (k : ℤ) : |x * 2 ^ k - a| = |x - a / 2 ^ k| * 2 ^ k := by
  have hpos : (0 : ℚ) < 2 ^ k := by positivity
  rw [← abs_of_pos hpos, ← abs_mul, abs_of_pos hpos, sub_mul, div_mul_cancel₀ _ hpos.ne']

/-- An integer within half a unit of a / 2^k gives a nearest multiple of 2^k. -/
theorem abs_mul_zpow_sub_le {n k : ℤ} {a : ℚ} (h : |(n : ℚ) - a / 2 ^ k| ≤ 1 / 2) (j : ℤ) :
    |(n : ℚ) * 2 ^ k - a| ≤ |(j : ℚ) * 2 ^ k - a| := by
  rw [abs_mul_zpow_sub, abs_mul_zpow_sub]
  exact mul_le_mul_of_nonneg_right (abs_sub_le_of_near h j) (by positivity)

/-! ## `rhaz` -/

/-- `rhaz` of a non-negative rational is within half a unit, and above it where it is half a unit away. -/
theorem rhaz_bounds_of_nonneg {q : ℚ} (h : 0 ≤ q) : (rhaz q : ℚ) - 1 / 2 ≤ q ∧ q < rhaz q + 1 / 2 := by
  rw [rhaz_of_nonneg h]
  have hle := Int.floor_le (q + 1 / 2)
  have hlt := Int.lt_floor_add_one (q + 1 / 2)
  exact ⟨by linarith, by linarith⟩

/-- Settles O16: a non-negative rational is rounded by the floor of one half more, and a negative one as its
opposite. -/
theorem encoderRoundingIsHalfAwayFromZero : Obligations.EncoderRoundingIsHalfAwayFromZero := by
  have of_nonneg (q : ℚ) (h : 0 ≤ q) :
      |(rhaz q : ℚ) - q| ≤ 1 / 2 ∧ (|(rhaz q : ℚ) - q| = 1 / 2 → |q| < |(rhaz q : ℚ)|) := by
    obtain ⟨hlow, hhigh⟩ := rhaz_bounds_of_nonneg h
    refine ⟨abs_le.mpr ⟨by linarith, by linarith⟩, fun htie => ?_⟩
    have habove : (rhaz q : ℚ) - q = 1 / 2 := by
      obtain h' | h' := abs_eq (by norm_num) |>.mp htie <;> linarith
    rw [abs_of_nonneg h, abs_of_nonneg (by linarith)]
    linarith
  intro q
  obtain h | h := le_total 0 q
  · exact ⟨(of_nonneg q h).1, (of_nonneg q h).2, rhaz_neg q⟩
  · obtain ⟨hnear, htie⟩ := of_nonneg (-q) (neg_nonneg.mpr h)
    rw [rhaz_neg, Int.cast_neg, neg_sub_neg, abs_sub_comm] at hnear htie
    rw [abs_neg, abs_neg] at htie
    exact ⟨hnear, htie, rhaz_neg q⟩

/-- `rhaz` is within half a unit of its argument. -/
theorem rhaz_near (q : ℚ) : |(rhaz q : ℚ) - q| ≤ 1 / 2 := (encoderRoundingIsHalfAwayFromZero q).1

/-- Rounding a value to a multiple of 2^n moves it by at most half a unit. -/
theorem abs_sub_rhaz_mul_le (v : ℚ) (n : ℤ) : |v - rhaz (v / 2 ^ n) * 2 ^ n| ≤ 2 ^ (n - 1) := by
  rw [abs_sub_comm, abs_mul_zpow_sub]
  calc _ ≤ 1 / 2 * (2 : ℚ) ^ n := mul_le_mul_of_nonneg_right (rhaz_near _) (by positivity)
    _ = 2 ^ (n - 1) := by rw [zpow_sub_one₀ two_ne_zero]; ring

/-- `rhaz` leaves an integer as it is. -/
@[simp] theorem rhaz_intCast (n : ℤ) : rhaz (n : ℚ) = n := by
  have hzero := abs_sub_le_of_near (rhaz_near n) n
  rw [sub_self, abs_zero, abs_nonpos_iff, sub_eq_zero] at hzero
  exact_mod_cast hzero

/-! ## Canonical pairs -/

/-- The last place k and the integer n of a finite binary32: n has at most 24 bits, with the 24th set unless k is the
subnormal quantum. -/
structure Canonical (k n : ℤ) : Prop where
  quantum_le : -149 ≤ k
  le_max : k ≤ 104
  nonneg : 0 ≤ n
  lt_max : n < 2 ^ 24
  normal : 2 ^ 23 ≤ n ∨ k = -149

/-- The fields of a pattern, from its value as a number. -/
theorem f32Exp_eq (f : F32) : f32Exp f = f.toNat / 2 ^ 23 % 2 ^ 8 := by
  rw [f32Exp, BitVec.extractLsb'_toNat, Nat.shiftRight_eq_div_pow]

theorem f32Frac_eq (f : F32) : f32Frac f = f.toNat % 2 ^ 23 := by
  rw [f32Frac, BitVec.extractLsb'_toNat, Nat.shiftRight_zero]

theorem isFinite_iff (f : F32) : isFinite f = true ↔ f32Exp f ≠ 255 := by
  simp [isFinite]

/-- Every finite binary32 has a canonical pair: its pattern below the sign is `(k + 149) × 2^23 + n` and its magnitude
n × 2^k. -/
theorem exists_canonical {f : F32} (hf : isFinite f = true) :
    ∃ k n, Canonical k n ∧ (f.toNat : ℤ) % 2 ^ 31 = (k + 149) * 2 ^ 23 + n ∧ realMagnitude f = n * (2 : ℚ) ^ k := by
  rw [isFinite_iff, f32Exp_eq] at hf
  unfold realMagnitude
  rw [f32Exp_eq, f32Frac_eq]
  split_ifs with hexp
  · exact ⟨-149, (f.toNat % 2 ^ 23 : ℕ), ⟨by omega, by omega, by omega, by omega, by omega⟩, by omega,
      by rw [pow2_eq_zpow, Int.cast_natCast]⟩
  · exact ⟨(f.toNat / 2 ^ 23 % 2 ^ 8 : ℕ) - 150, (2 ^ 23 + f.toNat % 2 ^ 23 : ℕ),
      ⟨by omega, by omega, by omega, by omega, by omega⟩, by omega, by rw [pow2_eq_zpow, Int.cast_natCast]⟩

/-- A canonical pair with a smaller last place has a smaller value. -/
theorem Canonical.lt_of_lt {k n k' n' : ℤ} (h : Canonical k n) (h' : Canonical k' n') (hk : k < k') :
    (n : ℚ) * 2 ^ k < n' * 2 ^ k' := by
  have hquantum := h.quantum_le
  have hnormal : 2 ^ 23 ≤ n' := h'.normal.resolve_right (by omega)
  have hn : (n : ℚ) < 2 ^ 24 := by exact_mod_cast h.lt_max
  have hn' : (2 : ℚ) ^ 23 ≤ n' := by exact_mod_cast hnormal
  calc (n : ℚ) * 2 ^ k < 2 ^ 24 * 2 ^ k := by gcongr
    _ = 2 ^ 23 * 2 ^ (k + 1) := by rw [zpow_add_one₀ two_ne_zero]; ring
    _ ≤ n' * 2 ^ k' := by gcongr <;> [norm_num; omega]

/-- The value of a canonical pair determines it. -/
theorem Canonical.eq_of_value_eq {k n k' n' : ℤ} (h : Canonical k n) (h' : Canonical k' n')
    (heq : (n : ℚ) * 2 ^ k = n' * 2 ^ k') : k = k' ∧ n = n' := by
  obtain hk | rfl | hk := lt_trichotomy k k'
  · exact absurd heq (h.lt_of_lt h' hk).ne
  · exact ⟨rfl, by exact_mod_cast mul_right_cancel₀ (by positivity) heq⟩
  · exact absurd heq.symm (h'.lt_of_lt h hk).ne

/-- A pattern made of a canonical pair is finite and has its magnitude. -/
theorem Canonical.realMagnitude_eq {k n : ℤ} (h : Canonical k n) {f : F32}
    (hf : (f.toNat : ℤ) % 2 ^ 31 = (k + 149) * 2 ^ 23 + n) :
    isFinite f = true ∧ realMagnitude f = n * (2 : ℚ) ^ k := by
  obtain ⟨hquantum, hmax, hnonneg, hlt, hnormal⟩ := h
  have hfinite : isFinite f = true := by
    rw [isFinite_iff, f32Exp_eq]
    omega
  obtain ⟨k', n', ⟨hquantum', hmax', hnonneg', hlt', hnormal'⟩, hpattern, hvalue⟩ := exists_canonical hfinite
  obtain rfl : k' = k := by omega
  obtain rfl : n' = n := by omega
  exact ⟨hfinite, hvalue⟩

/-! ## Binary32 values and multiples of a last place -/

/-- A rational is a multiple of 2^k, or it lies below the binade whose last place is 2^k. -/
def OnGrid (k : ℤ) (r : ℚ) : Prop :=
  (∃ j : ℤ, r = j * (2 : ℚ) ^ k) ∨ (-149 < k ∧ |r| < 2 ^ 23 * (2 : ℚ) ^ k)

theorem OnGrid.neg {k : ℤ} {r : ℚ} (h : OnGrid k r) : OnGrid k (-r) := by
  obtain ⟨j, rfl⟩ | ⟨hk, hr⟩ := h
  · exact .inl ⟨-j, by push_cast; ring⟩
  · exact .inr ⟨hk, by rwa [abs_neg]⟩

/-- A power of two is an integer multiple of every smaller one. -/
theorem exists_int_mul_zpow {k k' : ℤ} (h : k ≤ k') (j : ℤ) : ∃ i : ℤ, (j : ℚ) * 2 ^ k' = i * 2 ^ k := by
  obtain ⟨d, rfl⟩ := Int.le.dest h
  exact ⟨j * 2 ^ d, by push_cast; rw [zpow_add₀ two_ne_zero, zpow_natCast]; ring⟩

/-- A multiple of a power of two not below the quantum, with at most 24 bits, is on the grid of every last place. -/
theorem onGrid_of_mul {j k' : ℤ} (hj : |j| ≤ 2 ^ 24) (hk' : -149 ≤ k') (k : ℤ) : OnGrid k ((j : ℚ) * 2 ^ k') := by
  obtain hle | hlt := le_or_gt k k'
  · exact .inl (exists_int_mul_zpow hle j)
  · have habs : |(j : ℚ) * 2 ^ k'| ≤ 2 ^ 23 * (2 : ℚ) ^ k := by
      have hj' : |(j : ℚ)| ≤ 2 ^ 24 := by exact_mod_cast hj
      rw [abs_mul, abs_of_pos (by positivity : (0 : ℚ) < 2 ^ k')]
      calc |(j : ℚ)| * 2 ^ k' ≤ 2 ^ 24 * 2 ^ k' := by gcongr
        _ = 2 ^ 23 * 2 ^ (k' + 1) := by rw [zpow_add_one₀ two_ne_zero]; ring
        _ ≤ 2 ^ 23 * 2 ^ k := by gcongr <;> [norm_num; omega]
    obtain hlt' | heq := habs.lt_or_eq
    · exact .inr ⟨by omega, hlt'⟩
    · obtain h | h := abs_eq (by positivity) |>.mp heq
      · exact .inl ⟨2 ^ 23, by rw [h]; push_cast; ring⟩
      · exact .inl ⟨-2 ^ 23, by rw [h]; push_cast; ring⟩

/-- Every finite binary32 value is on the grid of every last place. -/
theorem onGrid_real {g : F32} (hg : isFinite g = true) (k : ℤ) : OnGrid k (real g) := by
  obtain ⟨k', n, hcanonical, -, hvalue⟩ := exists_canonical hg
  have hgrid : OnGrid k (realMagnitude g) := by
    rw [hvalue]
    refine onGrid_of_mul ?_ hcanonical.quantum_le k
    rw [abs_of_nonneg hcanonical.nonneg]
    exact hcanonical.lt_max.le
  unfold real
  split_ifs
  · exact hgrid.neg
  · exact hgrid

/-! ## The last place of a magnitude -/

/-- The integer `roundMagnitude` finds: the rounded number of last places. -/
def lastPlaces (a : ℚ) : ℤ := roundHalfEven (a / 2 ^ lastPlace a)

section
variable {a : ℚ} (ha : 0 < a)

theorem quantum_le_lastPlace (a : ℚ) : -149 ≤ lastPlace a := le_max_right _ _

include ha

/-- A magnitude is below 2^24 of its last places. -/
theorem lt_lastPlace : a < 2 ^ 24 * (2 : ℚ) ^ lastPlace a := by
  have hlt := (floorLog2_spec ha).2
  rw [pow2_eq_zpow] at hlt
  calc a < 2 ^ (floorLog2 a + 1) := hlt
    _ = 2 ^ 24 * 2 ^ (floorLog2 a - 23) := by
      rw [← zpow_natCast, ← zpow_add₀ two_ne_zero]
      congr 1
      omega
    _ ≤ 2 ^ 24 * 2 ^ lastPlace a := by gcongr <;> [norm_num; exact le_max_left _ _]

/-- A magnitude below 2^m has no last place above m - 24. -/
theorem lastPlace_le {m : ℤ} (hm : -125 ≤ m) (h : a < 2 ^ m) : lastPlace a ≤ m - 24 := by
  have hle := (floorLog2_spec ha).1
  rw [pow2_eq_zpow] at hle
  have hlog : floorLog2 a < m := (zpow_lt_zpow_iff_right₀ one_lt_two).mp (hle.trans_lt h)
  exact max_le (by omega) (by omega)

/-- A magnitude of at least 2^(-126) is at least 2^23 of its last places. -/
theorem lastPlace_mul_le_of_normal (h : (2 : ℚ) ^ (-126 : ℤ) ≤ a) : 2 ^ 23 * (2 : ℚ) ^ lastPlace a ≤ a := by
  obtain ⟨hle, hlt⟩ := floorLog2_spec ha
  rw [pow2_eq_zpow] at hle hlt
  have hlog : -126 < floorLog2 a + 1 := (zpow_lt_zpow_iff_right₀ one_lt_two).mp (h.trans_lt hlt)
  have hplace : lastPlace a = floorLog2 a - 23 := max_eq_left (by omega)
  calc 2 ^ 23 * (2 : ℚ) ^ lastPlace a = 2 ^ floorLog2 a := by
        rw [hplace, ← zpow_natCast, ← zpow_add₀ two_ne_zero]
        congr 1
        omega
    _ ≤ a := hle

/-- So is a magnitude whose last place is above the quantum. -/
theorem lastPlace_mul_le (h : -149 < lastPlace a) : 2 ^ 23 * (2 : ℚ) ^ lastPlace a ≤ a := by
  refine lastPlace_mul_le_of_normal ha ?_
  by_contra hsmall
  have := lastPlace_le ha (m := -126 + 1) (by omega) ((not_le.mp hsmall).trans (by norm_num))
  omega

omit ha in
/-- The rounded number of last places is within one half. -/
theorem lastPlaces_near (a : ℚ) : |(lastPlaces a : ℚ) - a / 2 ^ lastPlace a| ≤ 1 / 2 := by
  rw [abs_sub_comm]
  exact (roundHalfEven_spec _).1

/-- No rational on the grid is nearer to a than the rounded number of last places, and of a tie that number is even. -/
theorem lastPlaces_nearest {r : ℚ} (hr : OnGrid (lastPlace a) r) :
    |(lastPlaces a : ℚ) * 2 ^ lastPlace a - a| ≤ |r - a| ∧
      (|(lastPlaces a : ℚ) * 2 ^ lastPlace a - a| = |r - a| → r ≠ lastPlaces a * 2 ^ lastPlace a →
        lastPlaces a % 2 = 0) := by
  have hpos : (0 : ℚ) < 2 ^ lastPlace a := by positivity
  have hmultiple := abs_mul_zpow_sub_le (lastPlaces_near a)
  obtain ⟨j, rfl⟩ | ⟨hnormal, hbelow⟩ := hr
  · refine ⟨hmultiple j, fun heq hne => ?_⟩
    rw [abs_mul_zpow_sub, abs_mul_zpow_sub] at heq
    have hhalf := abs_sub_eq_half_of_ne (lastPlaces_near a) (mul_right_cancel₀ hpos.ne' heq)
      (fun h => hne (by rw [h]))
    rw [abs_sub_comm] at hhalf
    exact (roundHalfEven_spec _).2 hhalf
  · have hlow : 2 ^ 23 * (2 : ℚ) ^ lastPlace a ≤ a := lastPlace_mul_le ha hnormal
    have hlt : |(lastPlaces a : ℚ) * 2 ^ lastPlace a - a| < |r - a| := by
      refine (hmultiple (2 ^ 23)).trans_lt ?_
      push_cast
      rw [abs_of_nonpos (by linarith), abs_of_nonpos (by linarith [le_abs_self r])]
      linarith [le_abs_self r]
    exact ⟨hlt.le, fun heq => absurd heq hlt.ne⟩

/-- The rounded number of last places of a magnitude below the overflow bound: its bits, and with them its pattern. -/
theorem lastPlaces_bounds (hbound : a < overflowBound) :
    0 ≤ lastPlaces a ∧ lastPlaces a ≤ 2 ^ 24 ∧ (2 ^ 23 ≤ lastPlaces a ∨ lastPlace a = -149) ∧
      lastPlace a ≤ 104 ∧ (lastPlace a = 104 → lastPlaces a < 2 ^ 24) := by
  have hpos : (0 : ℚ) < 2 ^ lastPlace a := by positivity
  obtain ⟨hlow, hhigh⟩ := abs_le.mp (lastPlaces_near a)
  have hquotient_pos : 0 < a / 2 ^ lastPlace a := div_pos ha hpos
  have hquotient_lt : a / 2 ^ lastPlace a < 2 ^ 24 := (div_lt_iff₀ hpos).mpr (lt_lastPlace ha)
  rw [overflowBound, pow2_eq_zpow, pow2_eq_zpow] at hbound
  refine ⟨?_, ?_, ?_, ?_, fun htop => ?_⟩
  · have : (-1 : ℚ) < lastPlaces a := by linarith
    have : (-1 : ℤ) < lastPlaces a := by exact_mod_cast this
    omega
  · have : (lastPlaces a : ℚ) < 2 ^ 24 + 1 := by linarith
    have : lastPlaces a < 2 ^ 24 + 1 := by exact_mod_cast this
    omega
  · refine (quantum_le_lastPlace a).eq_or_lt.elim (fun h => .inr h.symm) fun hnormal => .inl ?_
    have hge : 2 ^ 23 ≤ a / 2 ^ lastPlace a := (le_div_iff₀ hpos).mpr (lastPlace_mul_le ha hnormal)
    have : (2 ^ 23 - 1 : ℚ) < lastPlaces a := by linarith
    have : (2 ^ 23 - 1 : ℤ) < lastPlaces a := by exact_mod_cast this
    omega
  · have hlt : a < 2 ^ (128 : ℤ) := hbound.trans (sub_lt_self _ (by positivity))
    exact lastPlace_le ha (by norm_num) hlt
  · rw [htop] at hhigh
    have hlt : a / 2 ^ (104 : ℤ) < 2 ^ 24 - 1 / 2 := by
      rw [div_lt_iff₀ (by positivity)]
      calc a < 2 ^ (128 : ℤ) - 2 ^ (103 : ℤ) := hbound
        _ = (2 ^ 24 - 1 / 2) * 2 ^ (104 : ℤ) := by norm_num
    have : (lastPlaces a : ℚ) < 2 ^ 24 := by linarith
    exact_mod_cast this

/-- `roundMagnitude` below the overflow bound: a finite pattern without a sign, whose magnitude is the rounded number
of last places and whose last bit is that number's. -/
theorem roundMagnitude_spec (hbound : a < overflowBound) :
    isFinite (roundMagnitude a) = true ∧ (roundMagnitude a).toNat < 2 ^ 31 ∧
      realMagnitude (roundMagnitude a) = lastPlaces a * 2 ^ lastPlace a ∧
      ((roundMagnitude a).toNat : ℤ) % 2 = lastPlaces a % 2 := by
  obtain ⟨hnonneg, hle, hnormal, hmax, htop⟩ := lastPlaces_bounds ha hbound
  have hquantum := quantum_le_lastPlace a
  have hpattern : ((roundMagnitude a).toNat : ℤ) = (lastPlace a + 149) * 2 ^ 23 + lastPlaces a := by
    rw [roundMagnitude, pow2_eq_zpow]
    change ((BitVec.ofInt 32 ((lastPlace a + 149) * 2 ^ 23 + lastPlaces a)).toNat : ℤ) = _
    rw [BitVec.toNat_ofInt]
    omega
  refine ⟨?_, ?_, ?_, ?_⟩
  · obtain hlt | heq := hle.lt_or_eq
    · exact (Canonical.realMagnitude_eq ⟨hquantum, hmax, hnonneg, hlt, hnormal⟩ (by omega)).1
    · exact (Canonical.realMagnitude_eq (k := lastPlace a + 1) (n := 2 ^ 23)
        ⟨by omega, by omega, by omega, by omega, .inl le_rfl⟩ (by omega)).1
  · omega
  · obtain hlt | heq := hle.lt_or_eq
    · exact (Canonical.realMagnitude_eq ⟨hquantum, hmax, hnonneg, hlt, hnormal⟩ (by omega)).2
    · rw [(Canonical.realMagnitude_eq (k := lastPlace a + 1) (n := 2 ^ 23)
        ⟨by omega, by omega, by omega, by omega, .inl le_rfl⟩ (by omega)).2, heq, zpow_add_one₀ two_ne_zero]
      push_cast
      ring
  · omega

end

end Sys2Proof.Machine
end

section
/-! PROOF of the statements on `rne32` (spec/00_scope.md R11): zero, the two signs and the overflow are put around the
rounding of a magnitude. -/

namespace Sys2Proof.Machine

/-! ## The sign bit of a pattern -/

@[simp] theorem f32Exp_or_sign (f : F32) : f32Exp (f ||| 0x80000000#32) = f32Exp f := by
  rw [f32Exp, BitVec.extractLsb'_or, show (0x80000000#32).extractLsb' 23 8 = 0#8 by decide, BitVec.or_zero, f32Exp]

@[simp] theorem f32Frac_or_sign (f : F32) : f32Frac (f ||| 0x80000000#32) = f32Frac f := by
  rw [f32Frac, BitVec.extractLsb'_or, show (0x80000000#32).extractLsb' 0 23 = 0#23 by decide, BitVec.or_zero, f32Frac]

theorem isFinite_or_sign (f : F32) : isFinite (f ||| 0x80000000#32) = isFinite f := by
  rw [isFinite, isFinite, f32Exp_or_sign]

theorem real_or_sign (f : F32) : real (f ||| 0x80000000#32) = -realMagnitude f := by
  have hsign : f32Sign (f ||| 0x80000000#32) = true := by simp [f32Sign]
  rw [real, hsign, if_pos rfl, realMagnitude, realMagnitude, f32Exp_or_sign, f32Frac_or_sign]

theorem getLsbD_31_of_lt {f : F32} (hf : f.toNat < 2 ^ 31) : f.getLsbD 31 = false := Nat.testBit_lt_two_pow hf

theorem real_of_lt {f : F32} (hf : f.toNat < 2 ^ 31) : real f = realMagnitude f := by
  rw [real, f32Sign, getLsbD_31_of_lt hf, if_neg Bool.false_ne_true]

/-- The last bit of a pattern is its parity. -/
theorem getLsbD_zero_eq_false {f : F32} (hf : (f.toNat : ℤ) % 2 = 0) : f.getLsbD 0 = false := by
  rw [BitVec.getLsbD, Nat.testBit_zero, decide_eq_false_iff_not]
  omega

/-! ## The cases of `rne32` -/

@[simp] theorem rne32_zero : rne32 0 = 0x00000000#32 := if_pos rfl

theorem real_zero : real 0x00000000#32 = 0 := by
  rw [real_of_lt (by decide)]
  have hexp : f32Exp 0x00000000#32 = 0 := by decide
  have hfrac : f32Frac 0x00000000#32 = 0 := by decide
  rw [realMagnitude, if_pos hexp, hfrac, Nat.cast_zero, zero_mul]

theorem rne32_of_pos {q : ℚ} (hq : 0 < q) :
    rne32 q = if overflowBound ≤ q then 0x7F800000#32 else roundMagnitude q := by
  rw [rne32, if_neg hq.ne', magnitude_eq_abs, abs_of_pos hq]
  exact if_neg hq.le.not_gt

/-- A negative rational is rounded as its opposite, with the sign bit set. -/
theorem rne32_of_neg {q : ℚ} (hq : q < 0) : rne32 q = rne32 (-q) ||| 0x80000000#32 := by
  rw [rne32_of_pos (neg_pos.mpr hq), rne32, if_neg hq.ne, magnitude_eq_abs, abs_of_neg hq]
  exact if_pos hq

/-- What `rne32` finds for a positive rational below the overflow bound. -/
theorem rne32_spec_of_pos {q : ℚ} (hq : 0 < q) (hbound : q < overflowBound) :
    isFinite (rne32 q) = true ∧ (rne32 q).toNat < 2 ^ 31 ∧ real (rne32 q) = lastPlaces q * 2 ^ lastPlace q ∧
      (lastPlaces q % 2 = 0 → (rne32 q).getLsbD 0 = false) := by
  rw [rne32_of_pos hq, if_neg hbound.not_ge]
  obtain ⟨hfinite, hlt, hvalue, hparity⟩ := roundMagnitude_spec hq hbound
  exact ⟨hfinite, hlt, by rw [real_of_lt hlt, hvalue], fun heven => getLsbD_zero_eq_false (by rw [hparity, heven])⟩

/-- A non-negative rational is rounded to a pattern without a sign. -/
theorem rne32_toNat_lt {q : ℚ} (hq : 0 ≤ q) (hbound : q < overflowBound) : (rne32 q).toNat < 2 ^ 31 := by
  obtain rfl | hpos := hq.eq_or_lt
  · rw [rne32_zero]
    decide
  · obtain ⟨-, hlt, -⟩ := rne32_spec_of_pos hpos hbound
    exact hlt

/-- What `rne32` finds for a negative rational is the opposite of what it finds for the positive one. -/
theorem rne32_spec_of_neg {q : ℚ} (hq : q < 0) (hbound : -q < overflowBound) :
    isFinite (rne32 q) = isFinite (rne32 (-q)) ∧ real (rne32 q) = -real (rne32 (-q)) ∧
      (rne32 q).getLsbD 0 = (rne32 (-q)).getLsbD 0 := by
  have hlt := rne32_toNat_lt (neg_pos.mpr hq).le hbound
  rw [rne32_of_neg hq, isFinite_or_sign, real_or_sign, ← real_of_lt hlt]
  exact ⟨rfl, rfl, by simp⟩

/-! ## Rounding to nearest -/

/-- Below the overflow bound `rne32` is finite; no rational on every grid is nearer than its value, and of a tie the
last fraction bit is clear. -/
theorem rne32_nearest {q : ℚ} (hbound : |q| < overflowBound) :
    isFinite (rne32 q) = true ∧ ∀ r, (∀ k, OnGrid k r) → |real (rne32 q) - q| ≤ |r - q| ∧
      (|real (rne32 q) - q| = |r - q| → r ≠ real (rne32 q) → (rne32 q).getLsbD 0 = false) := by
  have of_pos (q : ℚ) (hq : 0 < q) (hbound : q < overflowBound) (r : ℚ) (hr : ∀ k, OnGrid k r) :
      |real (rne32 q) - q| ≤ |r - q| ∧
        (|real (rne32 q) - q| = |r - q| → r ≠ real (rne32 q) → (rne32 q).getLsbD 0 = false) := by
    obtain ⟨-, -, hvalue, heven⟩ := rne32_spec_of_pos hq hbound
    obtain ⟨hnear, htie⟩ := lastPlaces_nearest hq (hr (lastPlace q))
    rw [hvalue]
    exact ⟨hnear, fun heq hne => heven (htie heq hne)⟩
  obtain hneg | rfl | hpos := lt_trichotomy q 0
  · rw [abs_of_neg hneg] at hbound
    obtain ⟨hfinite, hvalue, hbit⟩ := rne32_spec_of_neg hneg hbound
    refine ⟨by rw [hfinite, (rne32_spec_of_pos (neg_pos.mpr hneg) hbound).1], fun r hr => ?_⟩
    have hopposite := of_pos (-q) (neg_pos.mpr hneg) hbound (-r) fun k => (hr k).neg
    have hflip (x : ℚ) : |-x - q| = |x - -q| := by rw [← abs_neg]; congr 1; ring
    rw [← hflip, ← hflip, neg_neg] at hopposite
    rw [hvalue, hbit]
    exact ⟨hopposite.1, fun heq hne => hopposite.2 heq fun h => hne (by rw [← h, neg_neg])⟩
  · rw [rne32_zero, real_zero]
    refine ⟨by decide, fun r _ => ⟨by simp, fun heq hne => ?_⟩⟩
    exact absurd (by simpa using heq.symm) hne
  · rw [abs_of_pos hpos] at hbound
    exact ⟨(rne32_spec_of_pos hpos hbound).1, of_pos q hpos hbound⟩

theorem overflowBound_eq : overflowBound = (2 : ℚ) ^ (128 : ℕ) - (2 : ℚ) ^ (103 : ℕ) := by
  rw [overflowBound, pow2_eq_zpow, pow2_eq_zpow, ← zpow_natCast, ← zpow_natCast]
  rfl

/-- Settles O17: every finite binary32 value is on every grid. -/
theorem decoderRoundingIsToNearestTiesToEven : Obligations.DecoderRoundingIsToNearestTiesToEven := by
  intro q hq
  rw [← overflowBound_eq] at hq
  obtain ⟨hfinite, hnearest⟩ := rne32_nearest hq
  exact ⟨hfinite, fun g hg => hnearest (real g) (onGrid_real hg)⟩

theorem rne32_of_overflow {q : ℚ} (h : overflowBound ≤ q) : rne32 q = 0x7F800000#32 := by
  have hpos : 0 < overflowBound := by rw [overflowBound_eq]; norm_num
  rw [rne32_of_pos (hpos.trans_le h), if_pos h]

/-- Settles O18: the overflow comes before the rounding, and the sign is set last. -/
theorem decoderRoundingOverflowsToInfinity : Obligations.DecoderRoundingOverflowsToInfinity := by
  intro q hq
  rw [← overflowBound_eq] at hq
  have hpos : 0 < overflowBound := by rw [overflowBound_eq]; norm_num
  obtain h | h := abs_cases q
  · rw [h.1] at hq
    rw [if_pos (hpos.trans_le hq), rne32_of_overflow hq]
  · rw [h.1] at hq
    rw [if_neg h.2.le.not_gt, rne32_of_neg h.2, rne32_of_overflow hq]
    rfl

/-- Rounding a value of the normal range moves it by at most one part in 2^24. -/
theorem abs_real_rne32_sub_le {q : ℚ} (hnormal : (2 : ℚ) ^ (-126 : ℤ) ≤ |q|) (hbound : |q| < overflowBound) :
    |real (rne32 q) - q| ≤ |q| / 2 ^ 24 := by
  have of_pos (q : ℚ) (hq : 0 < q) (hnormal : (2 : ℚ) ^ (-126 : ℤ) ≤ q) (hbound : q < overflowBound) :
      |real (rne32 q) - q| ≤ q / 2 ^ 24 := by
    have hlast := lastPlace_mul_le_of_normal hq hnormal
    obtain ⟨-, -, hvalue, -⟩ := rne32_spec_of_pos hq hbound
    rw [hvalue, abs_mul_zpow_sub]
    calc _ ≤ 1 / 2 * (2 : ℚ) ^ lastPlace q := mul_le_mul_of_nonneg_right (lastPlaces_near q) (by positivity)
      _ ≤ q / 2 ^ 24 := by linarith
  obtain ⟨habs, hq⟩ | ⟨habs, hq⟩ := abs_cases q <;> rw [habs] at hnormal hbound ⊢
  · exact of_pos q (lt_of_lt_of_le (by positivity) hnormal) hnormal hbound
  · obtain ⟨-, hvalue, -⟩ := rne32_spec_of_neg hq hbound
    rw [hvalue, ← abs_neg, neg_sub', neg_neg]
    exact of_pos (-q) (neg_pos.mpr hq) hnormal hbound

/-! ## Exact results -/

/-- A rational on every grid is rounded to a binary32 of exactly its value. -/
theorem real_rne32_of_onGrid {q : ℚ} (hbound : |q| < overflowBound) (hgrid : ∀ k, OnGrid k q) :
    real (rne32 q) = q := by
  have hnear := ((rne32_nearest hbound).2 q hgrid).1
  rwa [sub_self, abs_zero, abs_nonpos_iff, sub_eq_zero] at hnear

/-- No finite binary32 reaches the overflow bound. -/
theorem abs_real_lt {f : F32} (hf : isFinite f = true) : |real f| < overflowBound := by
  obtain ⟨k, n, hcanonical, -, hvalue⟩ := exists_canonical hf
  have hn : (n : ℚ) ≤ 2 ^ 24 - 1 := by exact_mod_cast Int.le_sub_one_of_lt hcanonical.lt_max
  have hk : (2 : ℚ) ^ k ≤ 2 ^ (104 : ℤ) := zpow_le_zpow_right₀ one_le_two hcanonical.le_max
  rw [abs_real, hvalue, overflowBound_eq]
  calc (n : ℚ) * 2 ^ k ≤ (2 ^ 24 - 1) * 2 ^ (104 : ℤ) := by gcongr
    _ < 2 ^ 128 - 2 ^ 103 := by norm_num

/-- Finite patterns of the same magnitude agree below the sign. -/
theorem toNat_mod_of_realMagnitude_eq {f g : F32} (hf : isFinite f = true) (hg : isFinite g = true)
    (h : realMagnitude f = realMagnitude g) : f.toNat % 2 ^ 31 = g.toNat % 2 ^ 31 := by
  obtain ⟨k, n, hcanonical, hpattern, hvalue⟩ := exists_canonical hf
  obtain ⟨k', n', hcanonical', hpattern', hvalue'⟩ := exists_canonical hg
  obtain ⟨rfl, rfl⟩ := hcanonical.eq_of_value_eq hcanonical' (by rw [← hvalue, ← hvalue', h])
  omega

theorem f32Sign_eq (f : F32) : f32Sign f = decide (2 ^ 31 ≤ f.toNat) :=
  (BitVec.msb_eq_getLsbD_last f).symm.trans (BitVec.msb_eq_decide f)

/-- The finite patterns of magnitude zero are the two zeros. -/
theorem toNat_mod_of_realMagnitude_eq_zero {f : F32} (hf : isFinite f = true) (h : realMagnitude f = 0) :
    f.toNat % 2 ^ 31 = 0 := by
  refine toNat_mod_of_realMagnitude_eq (g := 0x00000000#32) hf (by decide) ?_
  rw [h, ← abs_real, real_zero, abs_zero]

/-- Finite patterns other than -0.0 of the same value are the same. -/
theorem eq_of_real_eq {f g : F32} (hf : isFinite f = true) (hg : isFinite g = true) (hf0 : f ≠ 0x80000000#32)
    (hg0 : g ≠ 0x80000000#32) (h : real f = real g) : f = g := by
  have hmag : realMagnitude f = realMagnitude g := by rw [← abs_real, ← abs_real, h]
  have hmod := toNat_mod_of_realMagnitude_eq hf hg hmag
  have hlt := f.isLt
  have hlt' := g.isLt
  refine BitVec.eq_of_toNat_eq ?_
  obtain hzero | hpos := (realMagnitude_nonneg f).eq_or_lt
  · have hmod0 := toNat_mod_of_realMagnitude_eq_zero hf hzero.symm
    have hne : f.toNat ≠ 2 ^ 31 := fun h => hf0 (BitVec.eq_of_toNat_eq h)
    have hne' : g.toNat ≠ 2 ^ 31 := fun h => hg0 (BitVec.eq_of_toNat_eq h)
    omega
  · have hsign : 2 ^ 31 ≤ f.toNat ↔ 2 ^ 31 ≤ g.toNat := by
      rw [real, real, f32Sign_eq, f32Sign_eq] at h
      simp only [decide_eq_true_eq] at h
      split_ifs at h with hsf hsg hsg
      · exact iff_of_true hsf hsg
      · linarith
      · linarith
      · exact iff_of_false hsf hsg
    omega

theorem real_negZero : real 0x80000000#32 = 0 := by
  have hsign := real_or_sign 0x00000000#32
  rw [← abs_real, real_zero, abs_zero, neg_zero] at hsign
  exact hsign

/-- `rne32` does not answer -0.0 unless it rounds a negative rational to zero. -/
theorem rne32_ne_negZero {q : ℚ} (hbound : |q| < overflowBound) (h : real (rne32 q) = 0 → 0 ≤ q) :
    rne32 q ≠ 0x80000000#32 := by
  intro hzero
  have hq : 0 ≤ q := h (by rw [hzero, real_negZero])
  have hlt := rne32_toNat_lt hq ((le_abs_self q).trans_lt hbound)
  rw [hzero] at hlt
  exact absurd hlt (by decide)

/-- A rational on every grid is not rounded to -0.0. -/
theorem rne32_ne_negZero_of_onGrid {q : ℚ} (hbound : |q| < overflowBound) (hgrid : ∀ k, OnGrid k q) :
    rne32 q ≠ 0x80000000#32 := by
  refine rne32_ne_negZero hbound fun h => ?_
  rw [← real_rne32_of_onGrid hbound hgrid, h]

/-- Settles O19: the rounded value is the value itself, and only the two zeros share one. -/
theorem roundingARepresentableValueIsExact : Obligations.RoundingARepresentableValueIsExact := by
  refine ⟨rne32_zero, fun f hf hf0 => ?_⟩
  have hbound := abs_real_lt hf
  have hgrid := onGrid_real hf
  exact eq_of_real_eq (rne32_nearest hbound).1 hf (rne32_ne_negZero_of_onGrid hbound hgrid) hf0
    (real_rne32_of_onGrid hbound hgrid)

end Sys2Proof.Machine
end

section
/-! PROOF of the statements on LinearFloat16 (spec/40_linearfloat16.md). Every word's value is a binary32 value, so
decoding is exact. The search keeps its first valid exponent n: a multiple of a larger power of two is a multiple of
2^n, so no later candidate has a smaller error. -/

namespace Sys2Proof.Machine

open Safety

/-! ## Exact products -/

/-- A product of at most 24 bits and a power of two below 2^128 is below the overflow bound. -/
theorem abs_mul_zpow_lt_overflowBound {j k : ℤ} (hj : |j| ≤ 2 ^ 24) (hlt : |(j : ℚ) * 2 ^ k| < 2 ^ 128) :
    |(j : ℚ) * 2 ^ k| < overflowBound := by
  rw [overflowBound_eq]
  obtain hk | hk := lt_or_ge k 104
  · have hj' : |(j : ℚ)| ≤ 2 ^ 24 := by exact_mod_cast hj
    have hpow : (2 : ℚ) ^ k ≤ 2 ^ (103 : ℤ) := zpow_le_zpow_right₀ one_le_two (by omega)
    rw [abs_mul, abs_of_pos (by positivity : (0 : ℚ) < 2 ^ k)]
    calc |(j : ℚ)| * 2 ^ k ≤ 2 ^ 24 * 2 ^ (103 : ℤ) := by gcongr
      _ < 2 ^ 128 - 2 ^ 103 := by norm_num
  · obtain ⟨i, hi⟩ := exists_int_mul_zpow hk j
    have hpos : (0 : ℚ) < 2 ^ (104 : ℤ) := by positivity
    rw [hi, abs_mul, abs_of_pos hpos] at hlt ⊢
    have hsmall : |(i : ℚ)| < 2 ^ 24 := lt_of_mul_lt_mul_right (hlt.trans_eq (by norm_num)) hpos.le
    have hle : |(i : ℚ)| ≤ 2 ^ 24 - 1 := by
      have : |i| < 2 ^ 24 := by exact_mod_cast hsmall
      exact_mod_cast Int.le_sub_one_of_lt this
    calc |(i : ℚ)| * 2 ^ (104 : ℤ) ≤ (2 ^ 24 - 1) * 2 ^ (104 : ℤ) := by gcongr
      _ < 2 ^ 128 - 2 ^ 103 := by norm_num

/-- Such a product, not below the quantum, is rounded to a binary32 of exactly its value, and not to -0.0. -/
theorem rne32_mul_zpow {j k : ℤ} (hj : |j| ≤ 2 ^ 24) (hk : -149 ≤ k) (hlt : |(j : ℚ) * 2 ^ k| < 2 ^ 128) :
    isFinite (rne32 (j * 2 ^ k)) = true ∧ real (rne32 (j * 2 ^ k)) = j * 2 ^ k ∧
      rne32 (j * 2 ^ k) ≠ 0x80000000#32 := by
  have hbound := abs_mul_zpow_lt_overflowBound hj hlt
  have hgrid := onGrid_of_mul hj hk
  exact ⟨(rne32_nearest hbound).1, real_rne32_of_onGrid hbound hgrid, rne32_ne_negZero_of_onGrid hbound hgrid⟩

/-! ## The fields of a word -/

theorem lf16Mantissa_bounds (raw : Half) : -1024 ≤ (raw.extractLsb' 0 11).toInt ∧ (raw.extractLsb' 0 11).toInt ≤ 1023 :=
  ⟨BitVec.le_toInt _, Int.le_of_lt_add_one (BitVec.toInt_lt (x := raw.extractLsb' 0 11))⟩

theorem lf16Exponent_bounds (raw : Half) : -16 ≤ (raw.extractLsb' 11 5).toInt ∧ (raw.extractLsb' 11 5).toInt ≤ 15 :=
  ⟨BitVec.le_toInt _, Int.le_of_lt_add_one (BitVec.toInt_lt (x := raw.extractLsb' 11 5))⟩

theorem lf16Word_exponent {n : ℤ} (hmin : -16 ≤ n) (hmax : n ≤ 15) (y : ℤ) :
    ((lf16Word n y).extractLsb' 11 5).toInt = n := by
  rw [lf16Word, BitVec.extractLsb'_append_eq_left]
  exact BitVec.toInt_ofInt_eq_self (by norm_num) hmin (Int.lt_add_one_of_le hmax)

theorem lf16Word_mantissa {y : ℤ} (hmin : -1024 ≤ y) (hmax : y ≤ 1023) (n : ℤ) :
    ((lf16Word n y).extractLsb' 0 11).toInt = y := by
  rw [lf16Word, BitVec.extractLsb'_append_eq_right]
  exact BitVec.toInt_ofInt_eq_self (by norm_num) hmin (Int.lt_add_one_of_le hmax)

/-- The value of a packed exponent and mantissa in range (R64). -/
theorem lf16Value_lf16Word {n y : ℤ} (hn : -16 ≤ n ∧ n ≤ 15) (hy : -1024 ≤ y ∧ y ≤ 1023) :
    lf16Value (lf16Word n y) = y * 2 ^ n := by
  rw [lf16Value, lf16Word_exponent hn.1 hn.2, lf16Word_mantissa hy.1 hy.2]

/-! ## LF16.DEC -/

theorem exec_lf16Dec (raw : Half) (s : State) :
    exec (.lf16Dec raw) s = .next (s.answer (.ok ((lf16Decode raw).setWidth 40))) :=
  respond_spec _ s

theorem lf16Decode_eq (raw : Half) : lf16Decode raw = rne32 (lf16Value raw) := by
  rw [lf16Decode, pow2_eq_zpow]
  rfl

/-- Decoding is exact (R100). -/
theorem lf16Decode_spec (raw : Half) :
    isFinite (lf16Decode raw) = true ∧ real (lf16Decode raw) = lf16Value raw ∧ lf16Decode raw ≠ 0x80000000#32 := by
  obtain ⟨hymin, hymax⟩ := lf16Mantissa_bounds raw
  obtain ⟨hnmin, hnmax⟩ := lf16Exponent_bounds raw
  have hy : |(raw.extractLsb' 0 11).toInt| ≤ 2 ^ 24 := abs_le.mpr ⟨by omega, by omega⟩
  rw [lf16Decode_eq, lf16Value]
  refine rne32_mul_zpow hy (by omega) ?_
  have hy' : |((raw.extractLsb' 0 11).toInt : ℚ)| ≤ 2 ^ 24 := by exact_mod_cast hy
  rw [abs_mul, abs_of_pos (by positivity : (0 : ℚ) < 2 ^ (raw.extractLsb' 11 5).toInt)]
  calc _ ≤ (2 : ℚ) ^ 24 * 2 ^ (15 : ℤ) := by gcongr; norm_num
    _ < 2 ^ 128 := by norm_num

/-- A word of value zero decodes to +0.0 (D11). -/
theorem lf16Decode_of_value_zero {raw : Half} (h : lf16Value raw = 0) : lf16Decode raw = 0x00000000#32 := by
  rw [lf16Decode_eq, h, rne32_zero]

/-- Settles O20: the product is a binary32 value, and zero for a zero mantissa. -/
theorem lf16DecodeReturnsTheExactValue : Obligations.Lf16DecodeReturnsTheExactValue := by
  intro raw s
  obtain ⟨hfinite, hvalue, -⟩ := lf16Decode_spec raw
  refine ⟨lf16Decode raw, exec_lf16Dec raw s, hfinite, hvalue, fun hzero => lf16Decode_of_value_zero ?_⟩
  rw [lf16Value, hzero, BitVec.toInt_zero, Int.cast_zero, zero_mul]

/-! ## The least valid exponent -/

/-- n is the least exponent of a word that is valid for v (R102). -/
structure LeastValid (v : ℚ) (n : ℤ) : Prop where
  min_le : -16 ≤ n
  le_max : n ≤ 15
  valid : lf16Valid v n
  least : ∀ k : ℤ, -16 ≤ k → k < n → ¬ lf16Valid v k

/-- Below every valid exponent of a word there is a least one. -/
theorem exists_leastValid {v : ℚ} {m : ℤ} (hmin : -16 ≤ m) (hmax : m ≤ 15) (h : lf16Valid v m) :
    ∃ n ≤ m, LeastValid v n := by
  obtain ⟨n, ⟨hn, hvalid⟩, hleast⟩ := Int.exists_least_of_bdd (P := fun k => -16 ≤ k ∧ lf16Valid v k)
    ⟨-16, fun _ hk => hk.1⟩ ⟨m, hmin, h⟩
  have hnm : n ≤ m := hleast m ⟨hmin, h⟩
  exact ⟨n, hnm, hn, hnm.trans hmax, hvalid, fun k hk hlt hk' => (hleast k ⟨hk, hk'⟩).not_gt hlt⟩

/-- The largest exponent is valid in the domain of R102. -/
theorem lf16Valid_of_domain {v : ℚ} (hlow : -33570816 < v) (hhigh : v < 33538048) : lf16Valid v 15 := by
  rw [lf16Valid_iff]
  exact ⟨lt_of_eq_of_lt (by norm_num) hlow, hhigh.trans_eq (by norm_num)⟩

/-- The mantissa at a valid exponent is in range, and only there. -/
theorem lf16Valid_iff_mantissa (v : ℚ) (n : ℤ) :
    lf16Valid v n ↔ -1024 ≤ rhaz (v / 2 ^ n) ∧ rhaz (v / 2 ^ n) ≤ 1023 := by
  rw [← not_iff_not, ← lf16_mantissa_out_iff, pow2_eq_zpow]
  omega

/-! ## The search -/

/-- The candidate of the search at an exponent (R101). -/
def lf16Candidate (v : ℚ) (n : ℤ) : Lf16Candidate :=
  { n := n, y := rhaz (v / 2 ^ n), err := |v - rhaz (v / 2 ^ n) * 2 ^ n| }

/-- The error at an exponent is no larger than that of any mantissa at an exponent not below it. -/
theorem lf16Candidate_err_le {v : ℚ} {n m : ℤ} (hnm : n ≤ m) (y : ℤ) :
    (lf16Candidate v n).err ≤ |v - y * 2 ^ m| := by
  obtain ⟨i, hi⟩ := exists_int_mul_zpow hnm y
  rw [hi, lf16Candidate, abs_sub_comm v, abs_sub_comm v]
  exact abs_mul_zpow_sub_le (rhaz_near _) i

theorem lf16Try_of_not_valid {v : ℚ} {n : ℤ} (h : ¬ lf16Valid v n) (best : Option Lf16Candidate) :
    lf16Try v best n = best := if_pos ((lf16_mantissa_out_iff v n).mpr h)

/-- A turn at a valid exponent takes its candidate where nothing was found before. -/
theorem lf16Try_none_of_valid {v : ℚ} {n : ℤ} (h : lf16Valid v n) :
    lf16Try v none n = some (lf16Candidate v n) := by
  have hin := mt (lf16_mantissa_out_iff v n).mp (not_not.mpr h)
  rw [pow2_eq_zpow] at hin
  rw [lf16Try, magnitude_eq_abs]
  simp only [Config.lf16MantMin, Config.lf16MantMax, if_neg hin, pow2_eq_zpow]
  rfl

/-- A turn at a valid exponent keeps a candidate whose error is not larger. -/
theorem lf16Try_some_of_valid {v : ℚ} {n : ℤ} {b : Lf16Candidate} (h : lf16Valid v n)
    (hb : b.err ≤ (lf16Candidate v n).err) : lf16Try v (some b) n = some b := by
  have hin := mt (lf16_mantissa_out_iff v n).mp (not_not.mpr h)
  rw [pow2_eq_zpow] at hin
  rw [lf16Try, magnitude_eq_abs]
  simp only [Config.lf16MantMin, Config.lf16MantMax, if_neg hin, pow2_eq_zpow]
  exact if_neg hb.not_gt

/-- Turns at exponents that are not valid find nothing. -/
theorem foldl_lf16Try_of_not_valid {v : ℚ} {l : List ℤ} (h : ∀ k ∈ l, ¬ lf16Valid v k)
    (best : Option Lf16Candidate) : l.foldl (lf16Try v) best = best := by
  induction l generalizing best with
  | nil => rfl
  | cons k l ih =>
    obtain ⟨hk, hl⟩ := List.forall_mem_cons.mp h
    rw [List.foldl_cons, lf16Try_of_not_valid hk, ih hl]

/-- Turns at larger exponents keep a candidate: none of them has a smaller error. -/
theorem foldl_lf16Try_of_larger {v : ℚ} {n : ℤ} {l : List ℤ} (h : ∀ k ∈ l, n < k) :
    l.foldl (lf16Try v) (some (lf16Candidate v n)) = some (lf16Candidate v n) := by
  induction l with
  | nil => rfl
  | cons k l ih =>
    obtain ⟨hk, hl⟩ := List.forall_mem_cons.mp h
    have hkeep : lf16Try v (some (lf16Candidate v n)) k = some (lf16Candidate v n) := by
      by_cases hvalid : lf16Valid v k
      · exact lf16Try_some_of_valid hvalid (lf16Candidate_err_le hk.le _)
      · exact lf16Try_of_not_valid hvalid _
    rw [List.foldl_cons, hkeep, ih hl]

theorem lf16Exponents_pairwise : lf16Exponents.Pairwise (· < ·) := by decide

/-- The search returns the candidate of the least valid exponent (R103). -/
theorem lf16Search_of_leastValid {v : ℚ} {n : ℤ} (h : LeastValid v n) :
    lf16Search v = some (lf16Candidate v n) := by
  obtain ⟨below, above, hsplit⟩ := List.append_of_mem ((mem_lf16Exponents n).mpr ⟨h.min_le, h.le_max⟩)
  have hsorted := lf16Exponents_pairwise
  rw [hsplit, List.pairwise_append, List.pairwise_cons] at hsorted
  obtain ⟨-, ⟨habove, -⟩, hbelow⟩ := hsorted
  have hnot : ∀ k ∈ below, ¬ lf16Valid v k := by
    intro k hk
    have hmem : k ∈ lf16Exponents := by
      rw [hsplit]
      exact List.mem_append_left _ hk
    exact h.least k ((mem_lf16Exponents k).mp hmem).1 (hbelow k hk n List.mem_cons_self)
  rw [lf16Search, hsplit, List.foldl_append, foldl_lf16Try_of_not_valid hnot, List.foldl_cons,
    lf16Try_none_of_valid h.valid]
  exact foldl_lf16Try_of_larger habove

/-! ## LF16.ENC -/

theorem nonFinite_eq_false {val : F32} (h : isFinite val = true) : (isNaN val || isInf val) = false := by
  rw [isFinite_iff] at h
  simp [isNaN, isInf, h]

/-- The word LF16.ENC answers (R101). -/
theorem lf16Encode_of_leastValid {val : F32} {n : ℤ} (hval : isFinite val = true) (hne : real val ≠ 0)
    (h : LeastValid (real val) n) : lf16Encode val = .ok (lf16Word n (rhaz (real val / 2 ^ n))) := by
  rw [lf16Encode, nonFinite_eq_false hval, if_neg Bool.false_ne_true]
  simp only [if_neg hne, lf16Search_of_leastValid h, lf16Candidate]

theorem lf16Encode_of_zero {val : F32} (hval : isFinite val = true) (hzero : real val = 0) :
    lf16Encode val = .ok 0x0000#16 := by
  rw [lf16Encode, nonFinite_eq_false hval, if_neg Bool.false_ne_true]
  simp only [if_pos hzero]

theorem exec_lf16Enc_of_ok {val : F32} {w : Half} (h : lf16Encode val = .ok w) (s : State) :
    exec (.lf16Enc val) s = .next (s.answer (.ok (w.setWidth 40))) := by
  have hexec : exec (.lf16Enc val) s = deliver (lf16Encode val) s := rfl
  rw [hexec, h, deliver_ok, respond_spec]

/-- The value of the word that the least valid exponent gives. -/
theorem LeastValid.lf16Value_word {v : ℚ} {n : ℤ} (h : LeastValid v n) :
    lf16Value (lf16Word n (rhaz (v / 2 ^ n))) = rhaz (v / 2 ^ n) * 2 ^ n :=
  lf16Value_lf16Word ⟨h.min_le, h.le_max⟩ ((lf16Valid_iff_mantissa v n).mp h.valid)

/-- Settles O21: the search keeps the candidate of the least valid exponent. -/
theorem lf16EncodeFindsTheLeastValidExponent : Obligations.Lf16EncodeFindsTheLeastValidExponent := by
  intro val s n hval hne hmin hmax hvalid hleast
  exact exec_lf16Enc_of_ok (lf16Encode_of_leastValid hval hne ⟨hmin, hmax, hvalid, hleast⟩) s

/-- At an exponent below the least valid one even the extreme mantissas are farther away: the nearest multiple of the
next power of two lies beyond them. -/
theorem LeastValid.err_le_of_lt {v : ℚ} {n m y : ℤ} (h : LeastValid v n) (hm : -16 ≤ m) (hmn : m < n)
    (hy : -1024 ≤ y ∧ y ≤ 1023) : (lf16Candidate v n).err ≤ |v - y * 2 ^ m| := by
  have hinvalid := h.least (n - 1) (by omega) (by omega)
  have hunit : (0 : ℚ) < 2 ^ (n - 1) := by positivity
  have hle : (2 : ℚ) ^ m ≤ 2 ^ (n - 1) := zpow_le_zpow_right₀ one_le_two (by omega)
  have hpos : (0 : ℚ) < 2 ^ m := by positivity
  have hdouble : (2 : ℚ) ^ n = 2 * 2 ^ (n - 1) := by rw [zpow_sub_one₀ two_ne_zero]; ring
  have hymin : (-1024 : ℚ) ≤ y := by exact_mod_cast hy.1
  have hymax : (y : ℚ) ≤ 1023 := by exact_mod_cast hy.2
  rw [lf16Valid_iff, not_and_or, not_lt, not_lt] at hinvalid
  obtain hlow | hhigh := hinvalid
  · have hnear := lf16Candidate_err_le (v := v) (le_refl n) (-512)
    have hextreme : -1024 * (2 : ℚ) ^ (n - 1) ≤ y * 2 ^ m := by
      calc -1024 * (2 : ℚ) ^ (n - 1) ≤ -1024 * 2 ^ m := by linarith
        _ ≤ y * 2 ^ m := by gcongr
    rw [hdouble, abs_of_nonpos (by push_cast; linarith)] at hnear
    refine hnear.trans (le_trans ?_ (neg_le_abs _))
    push_cast
    linarith
  · have hnear := lf16Candidate_err_le (v := v) (le_refl n) 512
    have hextreme : (y : ℚ) * 2 ^ m ≤ 1023 * 2 ^ (n - 1) := by gcongr
    refine hnear.trans ((abs_le.mpr ⟨?_, ?_⟩).trans (le_abs_self _))
    · rw [hdouble]
      push_cast
      linarith
    · rw [hdouble]
      push_cast
      linarith

/-- Settles O22: at exponents from the least valid one on its candidate is the nearest multiple, and below that the
mantissas do not reach far enough. -/
theorem lf16EncodeMinimisesTheReconstructionError : Obligations.Lf16EncodeMinimisesTheReconstructionError := by
  intro val s hval hne hlow hhigh
  obtain ⟨n, -, hn⟩ := exists_leastValid (by norm_num) le_rfl (lf16Valid_of_domain hlow hhigh)
  refine ⟨_, exec_lf16Enc_of_ok (lf16Encode_of_leastValid hval hne hn) s, fun m y hmmin hmmax hymin hymax => ?_⟩
  rw [hn.lf16Value_word, lf16Word_exponent hn.min_le hn.le_max]
  refine ⟨?_, fun hy _ => ?_⟩
  · obtain hmn | hnm := lt_or_ge m n
    · exact hn.err_le_of_lt hmmin hmn ⟨hymin, hymax⟩
    · exact lf16Candidate_err_le hnm y
  · have hvalid : lf16Valid (real val) m := (lf16Valid_iff_mantissa _ _).mpr ⟨hy ▸ hymin, hy ▸ hymax⟩
    by_contra hlt
    exact hn.least m hmmin (not_le.mp hlt) hvalid

/-- A magnitude below one half is rounded to 0. -/
theorem rhaz_eq_zero {q : ℚ} (h : |q| < 1 / 2) : rhaz q = 0 := by
  have hlt : |(rhaz q : ℚ)| < 1 := by
    calc |(rhaz q : ℚ)| = |(rhaz q - q) + q| := by rw [sub_add_cancel]
      _ ≤ |(rhaz q : ℚ) - q| + |q| := abs_add_le _ _
      _ < 1 := by linarith [rhaz_near q]
  exact Int.abs_lt_one_iff.mp (by exact_mod_cast hlt)

/-- Settles O23: the least exponent of all is valid for a tiny value, and its mantissa there is 0. -/
theorem lf16EncodeOfZeroAndOfTinyValues : Obligations.Lf16EncodeOfZeroAndOfTinyValues := by
  refine fun val s => ⟨fun hzero => ?_, fun hval hne htiny => ⟨?_, ?_⟩⟩
  · obtain rfl | rfl := hzero
    · exact exec_lf16Enc_of_ok (lf16Encode_of_zero (by decide) real_zero) s
    · exact exec_lf16Enc_of_ok (lf16Encode_of_zero (by decide) real_negZero) s
  · have hhalf : |real val / 2 ^ (-16 : ℤ)| < 1 / 2 := by
      rw [abs_div, abs_of_pos (by positivity : (0 : ℚ) < 2 ^ (-16 : ℤ)), div_lt_iff₀ (by positivity)]
      exact htiny.trans_eq (by norm_num)
    have hmantissa := rhaz_eq_zero hhalf
    have hleast : LeastValid (real val) (-16) :=
      ⟨le_rfl, by norm_num, (lf16Valid_iff_mantissa _ _).mpr (by rw [hmantissa]; norm_num), fun k hk hlt => by omega⟩
    have hencode := lf16Encode_of_leastValid hval hne hleast
    rw [hmantissa] at hencode
    exact exec_lf16Enc_of_ok hencode s
  · have hdecode : lf16Decode 0x8000#16 = 0x00000000#32 := by
      refine lf16Decode_of_value_zero ?_
      rw [lf16Value, show ((0x8000#16).extractLsb' 0 11).toInt = 0 by decide, Int.cast_zero, zero_mul]
    have hexec := exec_lf16Dec 0x8000#16 s
    rw [hdecode] at hexec
    exact hexec

/-! ## Round trips -/

/-- A finite value for which an exponent is valid is encoded, and the word's value is within half a unit of that
exponent. -/
theorem exists_lf16Encode {val : F32} {m : ℤ} (hval : isFinite val = true) (hmin : -16 ≤ m) (hmax : m ≤ 15)
    (h : lf16Valid (real val) m) :
    ∃ w, lf16Encode val = .ok w ∧ |lf16Value w - real val| ≤ 2 ^ (m - 1) ∧
      ∀ y : ℤ, |lf16Value w - real val| ≤ |real val - y * 2 ^ m| := by
  obtain hzero | hne := eq_or_ne (real val) 0
  · have hvalue : lf16Value 0x0000#16 - real val = 0 := by
      rw [hzero, lf16Value, show ((0x0000#16).extractLsb' 0 11).toInt = 0 by decide, Int.cast_zero, zero_mul, sub_zero]
    refine ⟨_, lf16Encode_of_zero hval hzero, ?_, fun y => ?_⟩
    · rw [hvalue, abs_zero]
      positivity
    · rw [hvalue, abs_zero]
      exact abs_nonneg _
  · obtain ⟨n, hnm, hn⟩ := exists_leastValid hmin hmax h
    refine ⟨_, lf16Encode_of_leastValid hval hne hn, ?_, fun y => ?_⟩
    · rw [hn.lf16Value_word, abs_sub_comm]
      exact (abs_sub_rhaz_mul_le _ n).trans (zpow_le_zpow_right₀ one_le_two (by omega))
    · rw [hn.lf16Value_word, abs_sub_comm]
      exact lf16Candidate_err_le hnm y

/-- Settles O25: decoding is exact, so the distance is that of the encoded word's value. -/
theorem lf16RoundTripErrorIsAtMostHalfAUnit : Obligations.Lf16RoundTripErrorIsAtMostHalfAUnit := by
  intro val s m hval _ _ hmin hmax hvalid
  obtain ⟨w, hencode, hhalf, -⟩ := exists_lf16Encode hval hmin hmax hvalid
  obtain ⟨hfinite, hvalue, -⟩ := lf16Decode_spec w
  exact ⟨w, lf16Decode w, exec_lf16Enc_of_ok hencode s, exec_lf16Dec w s, hfinite, by rwa [hvalue]⟩

/-- A word's own exponent is valid for its value. -/
theorem lf16Valid_lf16Value (w : Half) : lf16Valid (lf16Value w) (w.extractLsb' 11 5).toInt := by
  rw [lf16Valid_iff_mantissa, lf16Value, mul_div_cancel_right₀ _ (by positivity), rhaz_intCast]
  exact lf16Mantissa_bounds w

/-- Settles O24: the value of the word is a multiple of its own unit, so encoding finds a word of the same value. -/
theorem lf16DecodedValuesSurviveReencoding : Obligations.Lf16DecodedValuesSurviveReencoding := by
  intro w s
  obtain ⟨hfinite, hvalue, -⟩ := lf16Decode_spec w
  obtain ⟨hmin, hmax⟩ := lf16Exponent_bounds w
  have hvalid := lf16Valid_lf16Value w
  rw [← hvalue] at hvalid
  obtain ⟨w', hencode, -, hnearest⟩ := exists_lf16Encode hfinite hmin hmax hvalid
  have hsame : lf16Value w' = lf16Value w := by
    have hzero := hnearest (w.extractLsb' 0 11).toInt
    rwa [hvalue, ← lf16Value, sub_self, abs_zero, abs_nonpos_iff, sub_eq_zero] at hzero
  have hdecode : lf16Decode w' = lf16Decode w := by rw [lf16Decode_eq, lf16Decode_eq, hsame]
  refine ⟨lf16Decode w, w', exec_lf16Dec w s, exec_lf16Enc_of_ok hencode s, ?_⟩
  rw [← hdecode]
  exact exec_lf16Dec w' s

end Sys2Proof.Machine
end

section
/-! PROOF of the statements on LinearFixed16 (spec/41_linearfixed16.md). A word has 16 bits, so its value at any i8
exponent is a binary32 value as long as it is below 2^128, and decoding is exact there. -/

namespace Sys2Proof.Machine

open Safety

/-! ## LFX16.DEC -/

theorem exec_lfx16Dec (raw : Half) (exp : Byte) (s : State) :
    exec (.lfx16Dec raw exp) s = .next (s.answer (.ok ((lfx16Decode raw exp).setWidth 40))) :=
  respond_spec _ s

theorem lfx16Decode_eq (raw : Half) (exp : Byte) :
    lfx16Decode raw exp = rne32 ((raw.toNat : ℚ) * 2 ^ exp.toInt) := by
  rw [lfx16Decode, pow2_eq_zpow, lfx16Value, Int.cast_natCast]
  rfl

/-- Decoding is exact below 2^128 (R120). -/
theorem lfx16Decode_spec {raw : Half} {exp : Byte} (h : (raw.toNat : ℚ) * 2 ^ exp.toInt < 2 ^ 128) :
    isFinite (lfx16Decode raw exp) = true ∧ real (lfx16Decode raw exp) = raw.toNat * 2 ^ exp.toInt ∧
      lfx16Decode raw exp ≠ 0x80000000#32 ∧ (lfx16Decode raw exp).getLsbD 31 = false := by
  have hword := raw.isLt
  have hexp := BitVec.le_toInt exp
  have hj : |(raw.toNat : ℤ)| ≤ 2 ^ 24 := abs_le.mpr ⟨by omega, by omega⟩
  have hnonneg : 0 ≤ (raw.toNat : ℚ) * 2 ^ exp.toInt := by positivity
  have habs : |((raw.toNat : ℤ) : ℚ) * 2 ^ exp.toInt| < 2 ^ 128 := by rwa [Int.cast_natCast, abs_of_nonneg hnonneg]
  obtain ⟨hfinite, hvalue, hne⟩ := rne32_mul_zpow hj (by omega) habs
  have hbound := abs_mul_zpow_lt_overflowBound hj habs
  rw [Int.cast_natCast] at hfinite hvalue hne hbound
  rw [lfx16Decode_eq]
  exact ⟨hfinite, hvalue, hne, getLsbD_31_of_lt (rne32_toNat_lt hnonneg ((le_abs_self _).trans_lt hbound))⟩

/-- From 2^128 on decoding gives +Infinity (D9). -/
theorem lfx16Decode_of_overflow {raw : Half} {exp : Byte} (h : (2 : ℚ) ^ 128 ≤ (raw.toNat : ℚ) * 2 ^ exp.toInt) :
    lfx16Decode raw exp = 0x7F800000#32 := by
  rw [lfx16Decode_eq, rne32_of_overflow]
  rw [overflowBound_eq]
  exact (sub_le_self _ (by positivity)).trans h

/-- Settles O26: below 2^128 decoding is exact, and from there on it overflows. -/
theorem lfx16DecodeReturnsTheExactValueOrInfinity : Obligations.Lfx16DecodeReturnsTheExactValueOrInfinity := by
  refine fun raw exp s => ⟨_, exec_lfx16Dec raw exp s, fun hlt => ?_, lfx16Decode_of_overflow⟩
  obtain ⟨hfinite, hvalue, -, hsign⟩ := lfx16Decode_spec hlt
  exact ⟨hfinite, hvalue, hsign⟩

/-! ## LFX16.ENC -/

/-- The word LFX16.ENC answers in its domain (R121). -/
theorem lfx16Encode_of_domain {val : F32} {exp : Byte} (hval : isFinite val = true) (hnonneg : 0 ≤ real val)
    (hlt : real val < 65535.5 * (2 : ℚ) ^ exp.toInt) :
    lfx16Encode val exp = .ok (BitVec.ofInt 16 (rhaz (real val / 2 ^ exp.toInt))) := by
  have hfits := mt (lfx16_overflow_iff (real val) exp.toInt).mp hlt.not_ge
  rw [pow2_eq_zpow] at hfits
  rw [lfx16Encode, nonFinite_eq_false hval, if_neg Bool.false_ne_true]
  simp only [if_neg hnonneg.not_gt, Config.lfx16RawMax, lfx16Exponent, pow2_eq_zpow, if_neg hfits]

/-- The rounded quotient is a 16-bit number in the domain. -/
theorem lfx16_quotient_bounds {v : ℚ} {n : ℤ} (hnonneg : 0 ≤ v) (hlt : v < 65535.5 * (2 : ℚ) ^ n) :
    0 ≤ rhaz (v / 2 ^ n) ∧ rhaz (v / 2 ^ n) ≤ 65535 := by
  have hfits := mt (lfx16_overflow_iff v n).mp hlt.not_ge
  rw [pow2_eq_zpow] at hfits
  have hquotient : 0 ≤ v / 2 ^ n := div_nonneg hnonneg (by positivity)
  refine ⟨?_, not_lt.mp hfits⟩
  rw [rhaz_of_nonneg hquotient]
  exact Int.floor_nonneg.mpr (by linarith)

theorem ofInt16_toNat {y : ℤ} (hmin : 0 ≤ y) (hmax : y ≤ 65535) : ((BitVec.ofInt 16 y).toNat : ℤ) = y := by
  rw [BitVec.toNat_ofInt]
  omega

theorem exec_lfx16Enc_of_ok {val : F32} {exp : Byte} {w : Half} (h : lfx16Encode val exp = .ok w) (s : State) :
    exec (.lfx16Enc val exp) s = .next (s.answer (.ok (w.setWidth 40))) := by
  have hexec : exec (.lfx16Enc val exp) s = deliver (lfx16Encode val exp) s := rfl
  rw [hexec, h, deliver_ok, respond_spec]

/-- Settles O27: in the domain the word is the rounded quotient. -/
theorem lfx16EncodeRoundsToTheNearestWord : Obligations.Lfx16EncodeRoundsToTheNearestWord := by
  intro val exp s hval hnonneg hlt
  obtain ⟨hmin, hmax⟩ := lfx16_quotient_bounds hnonneg hlt
  have hword : ((BitVec.ofInt 16 (rhaz (real val / 2 ^ exp.toInt))).toNat : ℚ) = rhaz (real val / 2 ^ exp.toInt) := by
    exact_mod_cast ofInt16_toNat hmin hmax
  obtain ⟨hlow, hhigh⟩ := rhaz_bounds_of_nonneg (div_nonneg hnonneg (by positivity : (0 : ℚ) ≤ 2 ^ exp.toInt))
  refine ⟨_, exec_lfx16Enc_of_ok (lfx16Encode_of_domain hval hnonneg hlt) s, ?_, ?_, ?_⟩
  · rw [hword]
    linarith
  · rw [hword]
    linarith
  · rw [hword]
    exact abs_sub_rhaz_mul_le (real val) exp.toInt

/-- Settles O28: the decoded value is the word times the unit, so the quotient is the word. -/
theorem lfx16WordsRoundTrip : Obligations.Lfx16WordsRoundTrip := by
  intro raw exp s hlt
  obtain ⟨hfinite, hvalue, -, -⟩ := lfx16Decode_spec hlt
  have hpos : (0 : ℚ) < 2 ^ exp.toInt := by positivity
  have hword : (raw.toNat : ℚ) < 65535.5 := by
    have : raw.toNat ≤ 65535 := Nat.le_of_lt_succ raw.isLt
    have : (raw.toNat : ℚ) ≤ 65535 := by exact_mod_cast this
    linarith
  have hquotient : rhaz (real (lfx16Decode raw exp) / 2 ^ exp.toInt) = raw.toNat := by
    rw [hvalue, mul_div_cancel_right₀ _ hpos.ne', ← Int.cast_natCast, rhaz_intCast]
  have hencode := lfx16Encode_of_domain (exp := exp) hfinite (by rw [hvalue]; positivity)
    (by rw [hvalue]; exact mul_lt_mul_of_pos_right hword hpos)
  rw [hquotient, BitVec.ofInt_natCast, BitVec.ofNat_toNat, BitVec.setWidth_eq] at hencode
  exact ⟨_, exec_lfx16Dec raw exp s, exec_lfx16Enc_of_ok hencode s⟩

/-! ## The exponent of a VOUT_MODE byte -/

theorem modeExponent_bounds (x : Byte) : -16 ≤ (x.extractLsb' 0 5).toInt ∧ (x.extractLsb' 0 5).toInt ≤ 15 :=
  ⟨BitVec.le_toInt _, Int.le_of_lt_add_one (BitVec.toInt_lt (x := x.extractLsb' 0 5))⟩

/-- Settles O29: the parameter of the record is the sign-extended exponent of the byte, which is far from overflow. -/
theorem parsedExponentsNeverOverflowTheScaler : Obligations.ParsedExponentsNeverOverflowTheScaler := by
  intro x raw s hsel
  obtain ⟨hmin, hmax⟩ := modeExponent_bounds x
  have hword : (raw.toNat : ℚ) ≤ 65535 := by
    exact_mod_cast Nat.le_of_lt_succ raw.isLt
  have hexp : ((packMode (vmParse x)).extractLsb' 0 8).toInt = (x.extractLsb' 0 5).toInt := by
    rw [packMode_vmParse_param, parsedParam_of_exponent hsel]
  have hlarge : (raw.toNat : ℚ) * 2 ^ (x.extractLsb' 0 5).toInt ≤ 65535 * 2 ^ (15 : ℕ) := by
    rw [← zpow_natCast]
    gcongr
    · exact one_le_two
    · exact hmax
  obtain ⟨hfinite, hvalue, -, -⟩ := lfx16Decode_spec (raw := raw) (exp := (packMode (vmParse x)).extractLsb' 0 8)
    (by rw [hexp]; exact hlarge.trans_lt (by norm_num))
  rw [hexp] at hvalue
  refine ⟨_, _, exec_vmDec x s, exec_lfx16Dec raw _ s, hmin, hmax, hfinite, hvalue, ?_⟩
  rw [hvalue]
  obtain hzero | hpos := Nat.eq_zero_or_pos raw.toNat
  · exact .inl (by rw [hzero, Nat.cast_zero, zero_mul])
  · refine .inr ⟨?_, hlarge⟩
    have hone : (1 : ℚ) ≤ raw.toNat := by exact_mod_cast hpos
    calc (2 : ℚ) ^ (-16 : ℤ) ≤ 2 ^ (x.extractLsb' 0 5).toInt := zpow_le_zpow_right₀ one_le_two hmin
      _ ≤ raw.toNat * 2 ^ (x.extractLsb' 0 5).toInt := le_mul_of_one_le_left (by positivity) hone

end Sys2Proof.Machine
end

section
/-! PROOF of the statements on DirectLinear (spec/42_directlinear.md R142, R143, R145). With m not 0 the exact value of
decode is zero or lies between 10^-8 / 32768 and about 3.28 × 10^12, far inside the normal range of binary32, where
rounding moves it by at most one part in 2^24. -/

namespace Sys2Proof.Machine

open Safety

/-! ## The exact values -/

theorem dirScale_eq_scaleOf (e : ℤ) : dirScale e = scaleOf e := by
  simp only [dirScale, scaleOf, pow10_eq_zpow, Config.dirRMin, Config.dirRMax]

/-- The exact value of DIR.DEC is the formula of R142. -/
theorem dirDecodeExact_eq_value (c : Coefficients) (raw : Half) : dirDecodeExact c raw = dirDecodeValue c raw := by
  rw [dirDecodeValue, ← dirScale_eq_scaleOf]
  rfl

theorem scaleOf_pos (e : ℤ) : 0 < scaleOf e := by
  unfold scaleOf
  split_ifs <;> positivity

theorem scaleOf_le (e : ℤ) : scaleOf e ≤ 10 ^ 8 := by
  unfold scaleOf
  split_ifs with h
  · calc (10 : ℚ) ^ e ≤ 10 ^ (8 : ℤ) := zpow_le_zpow_right₀ (by norm_num) h.2
      _ = 10 ^ 8 := by norm_num
  · norm_num

/-- A scale is a whole number of its smallest unit. -/
theorem exists_scaleOf_mul (e : ℤ) : ∃ j : ℤ, scaleOf e * 10 ^ 8 = j := by
  unfold scaleOf
  split_ifs with h
  · refine ⟨10 ^ (e + 8).toNat, ?_⟩
    push_cast
    rw [← zpow_natCast, ← zpow_natCast, ← zpow_add₀ (by norm_num)]
    congr 1
    omega
  · exact ⟨10 ^ 8, by push_cast; ring⟩

/-- Scaling by an exponent of the table and by its opposite is scaling by 1. -/
theorem scaleOf_neg_mul_scaleOf {e : ℤ} (hmin : -8 ≤ e) (hmax : e ≤ 8) : scaleOf (-e) * scaleOf e = 1 := by
  rw [scaleOf, scaleOf, if_pos ⟨by omega, by omega⟩, if_pos ⟨hmin, hmax⟩, ← zpow_add₀ (by norm_num), neg_add_cancel,
    zpow_zero]

/-- An i16 operand as a rational. -/
theorem abs_toInt16_le (x : BitVec 16) : |(x.toInt : ℚ)| ≤ 32768 := by
  have hmin : -32768 ≤ x.toInt := BitVec.le_toInt x
  have hmax : x.toInt < 32768 := BitVec.toInt_lt
  exact_mod_cast abs_le.mpr ⟨hmin, hmax.le⟩

theorem toInt_ne_zero {x : BitVec 16} (h : x ≠ 0#16) : x.toInt ≠ 0 :=
  fun hzero => h (BitVec.eq_of_toInt_eq (hzero.trans BitVec.toInt_zero.symm))

/-- The slope, where it is not 0, has a magnitude of at least 1. -/
theorem one_le_abs_slope {x : BitVec 16} (h : x ≠ 0#16) : 1 ≤ |(x.toInt : ℚ)| := by
  exact_mod_cast Int.one_le_abs (toInt_ne_zero h)

/-- Settles O35: each equation is the other one times a scale. -/
theorem dirDirectionsAreInverseBeforeRounding : Obligations.DirDirectionsAreInverseBeforeRounding := by
  intro c raw x hm hmin hmax
  have hslope : (c.m.toInt : ℚ) ≠ 0 := by exact_mod_cast toInt_ne_zero hm
  have hscale := scaleOf_neg_mul_scaleOf hmin hmax
  rw [dirDecodeExact_eq_value, dirEncodeExact_eq_value, dirDecodeValue, dirEncodeValue, div_eq_iff hslope]
  constructor <;> intro h
  · linear_combination (-scaleOf c.r.toInt) * h + (raw.toInt : ℚ) * hscale
  · linear_combination (-scaleOf (-c.r.toInt)) * h + ((c.m.toInt : ℚ) * x + c.b.toInt) * hscale

/-! ## The size of the decoded value -/

/-- The exact decoded value is below 3.2769 × 10^12 (R142). -/
theorem abs_dirDecodeValue_le {c : Coefficients} (hm : c.m ≠ 0#16) (raw : Half) :
    |dirDecodeValue c raw| ≤ 32768 * 10 ^ 8 + 32768 := by
  have hscale : |scaleOf (-c.r.toInt)| ≤ 10 ^ 8 := by
    rw [abs_of_pos (scaleOf_pos _)]
    exact scaleOf_le _
  have hnumerator : |(raw.toInt : ℚ) * scaleOf (-c.r.toInt) - c.b.toInt| ≤ 32768 * 10 ^ 8 + 32768 := by
    calc _ ≤ |(raw.toInt : ℚ)| * |scaleOf (-c.r.toInt)| + |(c.b.toInt : ℚ)| := by
          rw [← abs_mul]
          exact abs_sub _ _
      _ ≤ _ := add_le_add (mul_le_mul (abs_toInt16_le raw) hscale (abs_nonneg _) (by norm_num)) (abs_toInt16_le c.b)
  rw [dirDecodeValue, abs_div]
  exact (div_le_self (abs_nonneg _) (one_le_abs_slope hm)).trans hnumerator

/-- An exact decoded value that is not 0 is at least 10^-8 / 32768: the numerator is a whole number of 10^-8. -/
theorem le_abs_dirDecodeValue {c : Coefficients} {raw : Half} (hm : c.m ≠ 0#16) (hne : dirDecodeValue c raw ≠ 0) :
    1 / 10 ^ 8 / 32768 ≤ |dirDecodeValue c raw| := by
  obtain ⟨j, hj⟩ := exists_scaleOf_mul (-c.r.toInt)
  have hunits : ((raw.toInt : ℚ) * scaleOf (-c.r.toInt) - c.b.toInt) * 10 ^ 8 =
      (raw.toInt * j - c.b.toInt * 10 ^ 8 : ℤ) := by
    push_cast
    rw [← hj]
    ring
  rw [dirDecodeValue] at hne ⊢
  have hne' : raw.toInt * j - c.b.toInt * 10 ^ 8 ≠ 0 := by
    intro hzero
    rw [hzero, Int.cast_zero, mul_eq_zero] at hunits
    exact hne (by rw [hunits.resolve_right (by norm_num), zero_div])
  have hone : (1 : ℚ) ≤ |(raw.toInt : ℚ) * scaleOf (-c.r.toInt) - c.b.toInt| * 10 ^ 8 := by
    rw [← abs_of_pos (by norm_num : (0 : ℚ) < 10 ^ 8), ← abs_mul, hunits]
    exact_mod_cast Int.one_le_abs hne'
  rw [abs_div]
  have hslope := one_le_abs_slope hm
  exact div_le_div₀ (abs_nonneg _) (by linarith) (by linarith) (abs_toInt16_le c.m)

/-! ## DIR.DEC -/

/-- With m not 0 DIR.DEC rounds the value of R142. -/
theorem dirDecode_eq {c : Coefficients} (hm : c.m ≠ 0#16) (raw : Half) :
    dirDecode c raw = rne32 (dirDecodeValue c raw) := by
  rw [dirDecode_of_slope hm, dirDecodeExact_eq_value]

theorem abs_dirDecodeValue_lt {c : Coefficients} (hm : c.m ≠ 0#16) (raw : Half) :
    |dirDecodeValue c raw| < overflowBound := by
  rw [overflowBound_eq]
  exact (abs_dirDecodeValue_le hm raw).trans_lt (by norm_num)

/-- The value DIR.DEC answers for an exact value other than 0. -/
theorem abs_real_dirDecode {c : Coefficients} {raw : Half} (hm : c.m ≠ 0#16) (hne : dirDecodeValue c raw ≠ 0) :
    3 / 10 ^ 13 < |real (dirDecode c raw)| ∧ |real (dirDecode c raw)| < 33 * 10 ^ 11 := by
  have hlow := le_abs_dirDecodeValue hm hne
  have hhigh := abs_dirDecodeValue_le hm raw
  have hnormal : (2 : ℚ) ^ (-126 : ℤ) ≤ |dirDecodeValue c raw| := le_trans (by norm_num) hlow
  have hmoved := abs_real_rne32_sub_le hnormal (abs_dirDecodeValue_lt hm raw)
  rw [← dirDecode_eq hm] at hmoved
  have hup := (abs_abs_sub_abs_le _ _).trans hmoved
  obtain ⟨hdown, hup⟩ := abs_le.mp hup
  exact ⟨by linarith, by linarith⟩

/-- DIR.DEC with m not 0 answers a finite binary32 other than -0.0 (R218). -/
theorem dirDecode_spec {c : Coefficients} (hm : c.m ≠ 0#16) (raw : Half) :
    isFinite (dirDecode c raw) = true ∧ dirDecode c raw ≠ 0x80000000#32 := by
  have hbound := abs_dirDecodeValue_lt hm raw
  refine ⟨by rw [dirDecode_eq hm]; exact (rne32_nearest hbound).1, ?_⟩
  obtain hzero | hne := eq_or_ne (dirDecodeValue c raw) 0
  · rw [dirDecode_eq hm, hzero, rne32_zero]
    decide
  · intro hnegZero
    have hsize := (abs_real_dirDecode hm hne).1
    rw [hnegZero, real_negZero, abs_zero] at hsize
    norm_num at hsize

/-- Settles O30: the exact value is far below the overflow bound and is rounded once, to nearest. -/
theorem dirDecodeReturnsTheCorrectlyRoundedQuotient : Obligations.DirDecodeReturnsTheCorrectlyRoundedQuotient := by
  refine fun c raw s hm => ⟨_, exec_dirDec c raw s, ?_⟩
  obtain ⟨hfinite, hnearest⟩ := rne32_nearest (abs_dirDecodeValue_lt hm raw)
  rw [dirDecode_eq hm]
  exact ⟨hfinite, fun hzero => by rw [hzero, rne32_zero], fun g hg => hnearest (real g) (onGrid_real hg)⟩

/-- Settles O31: zero is rounded to +0.0, and any other value keeps its size up to one part in 2^24. -/
theorem dirDecodeResultsAreZeroOrOfModerateSize : Obligations.DirDecodeResultsAreZeroOrOfModerateSize := by
  refine fun c raw s hm => ⟨_, exec_dirDec c raw s, ?_⟩
  obtain hzero | hne := eq_or_ne (dirDecodeValue c raw) 0
  · rw [dirDecode_eq hm, hzero, rne32_zero, real_zero, abs_zero]
    exact ⟨by norm_num, .inl rfl⟩
  · obtain ⟨hlow, hhigh⟩ := abs_real_dirDecode hm hne
    exact ⟨hhigh, .inr hlow⟩

/-- Settles O32: the bits are those the open constant gives for the operands. -/
theorem dirDecodeWithZeroSlopeReturnsAnOpenValue : Obligations.DirDecodeWithZeroSlopeReturnsAnOpenValue := by
  refine fun c raw hm => ⟨Config.mZero c.b c.r raw, fun s => ?_⟩
  have hopen : dirDecode c raw = Config.mZero c.b c.r raw := if_pos hm
  rw [← hopen]
  exact exec_dirDec c raw s

/-! ## DIR.ENC -/

/-- The word DIR.ENC answers where the rounded value is an i16 (R143). -/
theorem dirEncode_of_range {c : Coefficients} {val : F32} (hval : isFinite val = true)
    (hmin : -32768 ≤ rhaz (dirEncodeValue c (real val))) (hmax : rhaz (dirEncodeValue c (real val)) ≤ 32767) :
    dirEncode c val = .ok (BitVec.ofInt 16 (rhaz (dirEncodeValue c (real val)))) := by
  rw [dirEncode, nonFinite_eq_false hval, if_neg Bool.false_ne_true, dirEncodeExact_eq_value]
  exact if_neg (not_or.mpr ⟨not_lt.mpr hmin, not_lt.mpr hmax⟩)

/-- Settles O34: such a value rounds into the i16 range, and `rhaz` is the rounding. -/
theorem dirEncodeRoundsTheScaledValueLast : Obligations.DirEncodeRoundsTheScaledValueLast := by
  intro c val s hval hlow hhigh
  have hmin : -32768 ≤ rhaz (dirEncodeValue c (real val)) := by
    rw [← not_lt, rhaz_lt_neg_iff (by norm_num)]
    push_cast
    linarith
  have hmax : rhaz (dirEncodeValue c (real val)) ≤ 32767 := by
    rw [← not_lt, lt_rhaz_iff (by norm_num)]
    push_cast
    linarith
  refine ⟨BitVec.ofInt 16 (rhaz (dirEncodeValue c (real val))), ?_, ?_⟩
  · rw [exec_dirEnc, dirEncode_of_range hval hmin hmax, deliver_ok]
    exact respond_spec _ s
  · rw [BitVec.toInt_ofInt_eq_self (by norm_num) hmin (Int.lt_add_one_of_le hmax)]
    obtain ⟨hnear, htie, -⟩ := encoderRoundingIsHalfAwayFromZero (dirEncodeValue c (real val))
    exact ⟨hnear, htie⟩

end Sys2Proof.Machine
end

section
/-! PROOF of the statements on legal responses (spec/30_encoding.md R72, spec/44_status.md R190, spec/49_numeric_laws.md
R218, spec/60_exceptions.md R231 to R236). A result is legal by its width, and for a decoder or a status register by the
law of its value; an error is legal because only these four functions raise one. Every step answers a request with a
legal response, so every step keeps the invariant. -/

namespace Sys2Proof.Machine

open Safety

/-! ## Legal results -/

theorem resultWidth_le (op : Byte) : resultWidth op ≤ 40 := by
  unfold resultWidth
  dsimp only
  split_ifs <;> omega

/-- The result of an operation has w bits and is under no law but its width. -/
def PlainResult (op : Byte) (w : Nat) : Prop :=
  resultWidth op = w ∧ (op.toNat ≠ 0x00 ∧ op.toNat ≠ 0x10 ∧ op.toNat ≠ 0x20) ∧ (op.toNat < 0x40 ∨ 0x59 < op.toNat)

section
variable {q : Request} (hlegal : q.op ∈ legalOps)
include hlegal

/-- A result of the operation's width is legal where neither the law of decoders nor that of status values applies. -/
theorem legalResponse_of_plain {w : Nat} (v : BitVec w) (h : PlainResult q.op w) :
    legalResponse q (.ok (v.setWidth 40)) := by
  obtain ⟨hwidth, ⟨hlf16, hlfx16, hdir⟩, hstatus⟩ := h
  refine ⟨hlegal, ?_, ⟨fun h => ?_, fun h => absurd h hlfx16⟩, fun ⟨hmin, hmax⟩ => ?_⟩
  · rw [hwidth]
    exact okResponse_toNat_lt (hwidth ▸ resultWidth_le q.op) v
  · exact (h.elim hlf16 fun h => hdir h.1).elim
  · omega

/-- A binary32 under the law of decoders is a legal result of a decoder. -/
theorem legalResponse_of_decoder (f : F32) (hwidth : resultWidth q.op = 32) (hop : q.op.toNat < 0x40)
    (hlaw : decoderLaw q f) : legalResponse q (.ok (f.setWidth 40)) := by
  refine ⟨hlegal, ?_, ?_, fun ⟨hmin, _⟩ => by omega⟩
  · rw [hwidth]
    exact okResponse_toNat_lt (by omega) f
  · rwa [BitVec.setWidth_setWidth_of_le _ (by omega), BitVec.setWidth_eq]

/-- A masked value of the request's register is a legal result of ST.DEC and ST.BITS. -/
theorem legalResponse_of_status {r : StatusReg} (raw : Half) (hreg : statusRegOf q.op = r)
    (hwidth : resultWidth q.op = statusWidth r) (hop : 0x40 ≤ q.op.toNat) :
    legalResponse q (.ok ((statusValue r raw).setWidth 40)) := by
  refine ⟨hlegal, ?_, ⟨fun h => by omega, fun h => by omega⟩, fun _ k hk => ?_⟩
  · rw [hwidth]
    refine Nat.lt_pow_two_of_testBit _ fun k hk => ?_
    change ((statusValue r raw).setWidth 40).getLsbD k = false
    rw [BitVec.getLsbD_setWidth, statusValue_getLsbD, statusMask_getLsbD_of_width_le hk, Bool.and_false, Bool.and_false]
  · rw [BitVec.getLsbD_setWidth, statusValue_getLsbD, Bool.and_eq_true, Bool.and_eq_true] at hk
    rw [hreg]
    exact hk.2.2

/-- What a function that can raise an error delivers is legal where every error it raises is. -/
theorem legalResponse_responseOf {w : Nat} (r : Except ErrorKind (BitVec w)) (h : PlainResult q.op w)
    (herror : ∀ e, r = .error e → legalResponse q (.error e)) : legalResponse q (responseOf r) := by
  cases r with
  | ok v => exact legalResponse_of_plain hlegal v h
  | error e => exact herror e rfl

/-- What an encoder delivers is legal: it raises EncodingError alone. -/
theorem legalResponse_of_encoder {r : Except ErrorKind Half} (hop : q.op = 0x01 ∨ q.op = 0x11 ∨ q.op = 0x21)
    (herror : ∀ e, r = .error e → e = .encodingError) : legalResponse q (responseOf r) := by
  have hplain : PlainResult q.op 16 := by
    obtain hop | hop | hop := hop <;> simp [hop, PlainResult, resultWidth]
  refine legalResponse_responseOf hlegal r hplain fun e he => ?_
  rw [herror e he]
  exact hop

end

/-! ## The law of decoders -/

/-- The slope of a decoded DIR.DEC is the low half of the coefficients port. -/
theorem slope_of_decode {q : Request} {c : Coefficients} {raw : Half} (h : decode q = .ok (.dirDec c raw)) :
    c.m.toNat = q.coef.toNat % 65536 := by
  have hop : q.op = 0x20#8 := (opcode_of_decode h).symm
  obtain ⟨rfl, -⟩ : unpackCoef q.coef = c ∧ q.raw = raw := by simpa [decode, hop] using h
  simp [unpackCoef]

theorem decoderLaw_lf16Decode {q : Request} (hop : q.op = 0x00#8) (raw : Half) : decoderLaw q (lf16Decode raw) := by
  obtain ⟨hfinite, -, hne⟩ := lf16Decode_spec raw
  exact ⟨fun _ => ⟨hfinite, hne⟩, fun h => by simp [hop] at h⟩

theorem decoderLaw_lfx16Decode {q : Request} (hop : q.op = 0x10#8) (raw : Half) (exp : Byte) :
    decoderLaw q (lfx16Decode raw exp) := by
  refine ⟨fun h => by simp [hop] at h, fun _ => ?_⟩
  obtain hlt | hge := lt_or_ge ((raw.toNat : ℚ) * 2 ^ exp.toInt) (2 ^ 128)
  · obtain ⟨hfinite, -, hne, -⟩ := lfx16Decode_spec hlt
    exact .inl ⟨hfinite, hne⟩
  · exact .inr (lfx16Decode_of_overflow hge)

theorem decoderLaw_dirDecode {q : Request} {c : Coefficients} {raw : Half} (h : decode q = .ok (.dirDec c raw)) :
    decoderLaw q (dirDecode c raw) := by
  have hop : q.op = 0x20#8 := (opcode_of_decode h).symm
  refine ⟨fun hlaw => dirDecode_spec (fun hm => ?_) raw, fun h => by simp [hop] at h⟩
  have hslope := slope_of_decode h
  rw [hm] at hslope
  exact (hlaw.resolve_left (by simp [hop])).2 hslope.symm

/-! ## Every instruction -/

/-- Every instruction answers its request with a legal response. -/
theorem exec_legal {q : Request} {i : Instr} (h : decode q = .ok i) (s : State) :
    ∃ r, exec i s = .next (s.answer r) ∧ legalResponse q r := by
  have hop := (opcode_of_decode h).symm
  have hlegal : q.op ∈ legalOps := hop ▸ opcode_mem_legalOps i
  cases i with
  | lf16Dec raw =>
    exact ⟨_, exec_lf16Dec raw s, legalResponse_of_decoder hlegal _ (by simp [hop, opcode, resultWidth])
      (by simp [hop, opcode]) (decoderLaw_lf16Decode hop raw)⟩
  | lfx16Dec raw exp =>
    exact ⟨_, exec_lfx16Dec raw exp s, legalResponse_of_decoder hlegal _ (by simp [hop, opcode, resultWidth])
      (by simp [hop, opcode]) (decoderLaw_lfx16Decode hop raw exp)⟩
  | dirDec c raw =>
    exact ⟨_, exec_dirDec c raw s, legalResponse_of_decoder hlegal _ (by simp [hop, opcode, resultWidth])
      (by simp [hop, opcode]) (decoderLaw_dirDecode h)⟩
  | lf16Enc val =>
    exact ⟨_, rfl, legalResponse_of_encoder hlegal (.inl hop) fun e he => ((lf16Encode_eq_error_iff val e).mp he).1⟩
  | lfx16Enc val exp =>
    exact ⟨_, rfl, legalResponse_of_encoder hlegal (.inr (.inl hop)) fun e he =>
      ((lfx16Encode_eq_error_iff val exp e).mp he).1⟩
  | dirEnc c val =>
    exact ⟨_, rfl, legalResponse_of_encoder hlegal (.inr (.inr hop)) fun e he =>
      ((dirEncode_eq_error_iff c val e).mp he).1⟩
  | dirCoef buf len =>
    refine ⟨_, rfl, legalResponse_responseOf hlegal (dirParse buf len)
      (by simp [hop, opcode, PlainResult, resultWidth]) fun e he => ?_⟩
    obtain ⟨rfl, hlen⟩ := (dirParse_eq_error_iff buf len e).mp he
    obtain ⟨hop, -, rfl⟩ := (decode_eq_dirCoef_iff q buf len).mp h
    exact ⟨hop, hlen⟩
  | vmDec | vmEnc | stTestByte | stTestWord | stTestVout | stTestIout | stTestInput | stTestTemp | stTestCml
  | stTestMfr | stTestFans12 | stTestFans34 =>
    exact ⟨_, respond_spec _ s, legalResponse_of_plain hlegal _ (by simp [hop, opcode, PlainResult, resultWidth])⟩
  | _ =>
    exact ⟨_, respond_spec _ s, legalResponse_of_status hlegal _ (by simp [hop, opcode, statusRegOf])
      (by simp [hop, opcode, resultWidth, statusWidth]) (by simp [hop, opcode])⟩

/-! ## Every step -/

/-- Settles O10: a request that decodes is answered by its instruction, and another one by IllegalOp. -/
theorem everyRequestIsAnsweredInOneStep : Obligations.EveryRequestIsAnsweredInOneStep := by
  intro s q hreq
  obtain ⟨i, hd, -, -⟩ | ⟨e, hd, hillegal, -⟩ := decode_cases q
  · rw [step_of_decode_ok hreq hd]
    exact exec_legal hd s
  · exact ⟨.error .illegalOp, step_of_decode_error hreq hd, hillegal⟩

/-- Settles O8: a step without a request changes nothing, and every other step leaves a legal response beside its
request. -/
theorem stepKeepsEveryResponseLegalForItsRequest : Obligations.StepKeepsEveryResponseLegalForItsRequest := by
  intro s s' hinv hstep
  cases hreq : s.req with
  | none =>
    obtain rfl := Host.Outcome.next.inj ((step_of_no_request hreq).symm.trans hstep)
    exact hinv
  | some q =>
    obtain ⟨r, hnext, hlegal⟩ := everyRequestIsAnsweredInOneStep s q hreq
    obtain rfl := Host.Outcome.next.inj (hnext.symm.trans hstep)
    intro r' hr'
    obtain rfl := Option.some.inj hr'
    exact ⟨q, hreq, hlegal⟩

end Sys2Proof.Machine
end
